-- ==== Sys2Proof/Word.lean ====
section
/-! DEFINITION. The two word types of the block: a byte, and the 32-bit operand (spec rules R9, R91). -/

namespace Sys2Proof

/-- A byte: 8 bits, bit 7 the most significant (R9). -/
abbrev Byte := BitVec 8

/-- A 32-bit unsigned operand or size: `addr`, `len`, `budget` (R91), the geometry (R24), `mismatch` (R21). -/
abbrev Word := BitVec 32

end Sys2Proof
end

