-- ==== Sys2Proof/Config.lean ====
section
/-! DEFINITION. What an implementation fixes: the vocabulary of a device profile (rules R24 to R28), the opcode slots
(R100), every parameter of rule R7 as a field of `Config`, the illustrative configuration of 95_test_vectors.md
section 2, and the free values (constants without a body, which nothing can evaluate). -/

namespace Sys2Proof

/-- Vendor tag, a closed enumeration (R25). -/
inductive Vendor where
  | macronix | infineon | micron | unknown
  deriving DecidableEq, Repr

/-- Address width of a profile: 3 or 4 bytes (R24). -/
inductive AddrWidth where
  | three | four
  deriving DecidableEq, Repr

/-- The two status registers (R28, R222): PRI is read with `OPC_RDSR`, SEC with the profile's `RDSR2`. -/
inductive StatusReg where
  | pri | sec
  deriving DecidableEq, Repr

/-- Where an error flag is: a register and one of its bits (R28). -/
structure FlagPos where
  reg : StatusReg
  bit : Fin 8
  deriving DecidableEq, Repr

/-- A status layout (R28): busy and write-enable latch are always in the primary register. -/
structure StatusLayout where
  busyBit : Fin 8
  welBit : Fin 8
  perr : Option FlagPos
  eerr : Option FlagPos
  deriving DecidableEq, Repr

/-- The twelve opcode slots (R100). -/
inductive Slot where
  | rdid | rdsr | eid | wren | read | pp | ce | be | rdsr2 | rsten | rst | en4b
  deriving DecidableEq, Repr

/-- A density entry, the value of `REG.dens` (R27). -/
structure DensityEntry where
  density : BitVec 33
  addrWidth : AddrWidth
  pageSize : Word
  sectorSize : Word
  blockSize : Word
  layout : StatusLayout
  deriving DecidableEq, Repr

/-- A device profile (R24). -/
structure Profile where
  vendor : Vendor
  partNumber : Option String
  densOk : Bool
  addrWidth : AddrWidth
  pageSize : Word
  sectorSize : Word
  blockSize : Word
  density : BitVec 33
  layout : StatusLayout
  deriving DecidableEq, Repr

/-- The parameters of rule R7, fixed for the life of a machine (R8). The four registry tables are finite lists of
(key, value) pairs; the first pair with a key decides, and a key without a pair is undefined (for `REG.vendor_of`:
Unknown). -/
structure Config where
  numHandles : Nat
  numSelect : Nat
  vendorTable : List (Byte × Vendor)
  partTable : List ((Byte × Byte) × String)
  densTable : List ((Byte × Byte) × DensityEntry)
  opcTable : List ((Vendor × Slot × AddrWidth) × Byte)
  opcRdid : Byte
  opcRdsr : Byte
  opcEid : Byte
  eidDummy : Nat
  genRsten : Byte
  genRst : Byte
  genBusyBit : Fin 8
  genWelBit : Fin 8
  dummy : Byte
  tSrstSettle : Nat
  tHrstHold : Nat
  tHrstSettle : Nat
  tPoll : Nat
  deriving DecidableEq, Repr

/-! Free values. Each is a constant without a body: a claim that mentions one holds whatever it is. -/

/-- The byte a chip answers in exchange number `n` when the list of known answers is exhausted (R44, U8; log 3). -/
opaque Config.freeByte : Nat → Byte

/-- Byte `i` of the address sent when address `a` does not fit width `w`, in the bracket that begins at exchange
number `n`: `AddrBytes` is not defined there (R105, U3; log 6). -/
opaque Config.freeAddrByte : Nat → AddrWidth → Word → Nat → Byte

/-- The opcode of a slot that the registry leaves undefined: reached only with a registry that breaks rule R101
(U11; log 8), or by a bus format taken alone (log 10). -/
opaque Config.freeOpcode : Vendor → Slot → AddrWidth → Byte

/-- A quotient by zero: reached only with a registry that breaks rule R27 (R9, D40; log 9). -/
opaque Config.freeQuotient : Nat → Nat

/-- A remainder by zero: reached only with a registry that breaks rule R27 (R9, D40; log 9). -/
opaque Config.freeRemainder : Nat → Nat

/-! The illustrative configuration X (95_test_vectors.md section 2). PRESUMED: its numbers are general knowledge, not
the source's, and not normative (D10, G6; log 2). The three settle and hold times stay symbolic there; the numbers
here are a DESIGN CHOICE (log 2). -/

/-- Layout LM of registry X. -/
def layoutLM : StatusLayout := ⟨0, 1, some ⟨.sec, 4⟩, some ⟨.sec, 5⟩⟩
/-- Layout LX of registry X. -/
def layoutLX : StatusLayout := ⟨0, 1, some ⟨.sec, 5⟩, some ⟨.sec, 6⟩⟩
/-- Layout LI of registry X. -/
def layoutLI : StatusLayout := ⟨0, 1, some ⟨.pri, 6⟩, some ⟨.pri, 5⟩⟩

/-- A density entry of registry X: page 256, sector 4096, block 65536. -/
def densX (density : BitVec 33) (w : AddrWidth) (layout : StatusLayout) : DensityEntry :=
  { density := density, addrWidth := w, pageSize := 256, sectorSize := 4096, blockSize := 65536, layout := layout }

/-- The opcode rows of registry X for one known vendor, whose secondary status opcode is `rdsr2`. -/
def opcRowsX (v : Vendor) (rdsr2 : Byte) : List ((Vendor × Slot × AddrWidth) × Byte) :=
  [((v, .wren, .three), 0x06), ((v, .wren, .four), 0x06), ((v, .read, .three), 0x03), ((v, .read, .four), 0x13),
   ((v, .pp, .three), 0x02), ((v, .pp, .four), 0x12), ((v, .ce, .three), 0xC7), ((v, .ce, .four), 0xC7),
   ((v, .be, .three), 0xD8), ((v, .be, .four), 0xDC)] ++
  [((v, .rsten, .three), 0x66), ((v, .rsten, .four), 0x66), ((v, .rst, .three), 0x99), ((v, .rst, .four), 0x99),
   ((v, .en4b, .three), 0xB7), ((v, .en4b, .four), 0xB7), ((v, .rdsr2, .three), rdsr2), ((v, .rdsr2, .four), rdsr2)]

/-- The illustrative configuration of 95_test_vectors.md sections 2.1 and 2.2. -/
def Config.illustrative : Config where
  numHandles := 3
  numSelect := 3
  vendorTable := [(0xC2, .macronix), (0x01, .infineon), (0x20, .micron)]
  partTable :=
    [((0x20, 0xBA), "MT25QL256"), ((0xC2, 0x18), "MX25L25645G"), ((0xC2, 0x17), "MX25L12835F"),
     ((0x01, 0x02), "S25FL256S"), ((0x01, 0x20), "S25FL128S")]
  densTable :=
    [((0x20, 0x19), densX 0x2000000 .four layoutLM), ((0xC2, 0x19), densX 0x2000000 .four layoutLX),
     ((0xC2, 0x18), densX 0x1000000 .three layoutLX), ((0x01, 0x19), densX 0x2000000 .four layoutLI),
     ((0x01, 0x18), densX 0x1000000 .three layoutLI)]
  opcTable := opcRowsX .micron 0x70 ++ opcRowsX .macronix 0x2B ++ opcRowsX .infineon 0x07
  opcRdid := 0x9F
  opcRdsr := 0x05
  opcEid := 0xAB
  eidDummy := 3
  genRsten := 0x66
  genRst := 0x99
  genBusyBit := 0
  genWelBit := 1
  dummy := 0x00
  tSrstSettle := 20
  tHrstHold := 1
  tHrstSettle := 2
  tPoll := 0

end Sys2Proof
end

