-- ==== Sys2Proof/Machine/Operands.lean ====
section
/-! DEFINITION. Operand forms: the address-mode selector `Width` and `AddrBytes` (rules R103, R105), and the unsigned
quotient and remainder of rule R9. -/

namespace Sys2Proof.Machine

open Sys2Proof

/-- `Width(P)` as a number of bytes: 3 or 4 (R103). -/
def widthBytes : AddrWidth → Nat
  | .three => 3
  | .four => 4

/-- The address fits the width: `a < 2^(8w)`, where `AddrBytes` is defined (R70, R105). -/
def addrFits (w : AddrWidth) (a : Word) : Bool := decide (a.toNat < 2 ^ (8 * widthBytes w))

/-- Byte `i` of a word, byte 0 the least significant. -/
def wordByte (a : Word) (i : Nat) : Byte := a.extractLsb' (8 * i) 8

/-- `AddrBytes(w, a)`: the `w` bytes of the address, most significant first (R62, R105). Where the address does not
fit, the bytes are free values of the bracket that begins at exchange `n` (U3; log 6); their number is still `w`. -/
def addrBytes (n : Nat) (w : AddrWidth) (a : Word) : List Byte :=
  match w with
  | .four => [wordByte a 3, wordByte a 2, wordByte a 1, wordByte a 0]
  | .three =>
    if addrFits .three a then [wordByte a 2, wordByte a 1, wordByte a 0]
    else [Config.freeAddrByte n .three a 0, Config.freeAddrByte n .three a 1, Config.freeAddrByte n .three a 2]

/-- The quotient rounded toward zero (R9); a free value for a zero divisor, which the gates never let through with a
well-formed registry (D40; log 9). -/
def quotient (a b : Nat) : Nat := if b = 0 then Config.freeQuotient a else a / b

/-- The remainder (R9); a free value for a zero divisor (D40; log 9). -/
def remainder (a b : Nat) : Nat := if b = 0 then Config.freeRemainder a else a % b

end Sys2Proof.Machine
end

