-- ==== Sys2Proof/Machine/Registry.lean ====
section
/-! DEFINITION. The registry's lookups (rule R7), the identification resolver `Resolve` (R135 to R140), and the vendor
profile multiplexer `Opc` (R100, R102). Pure functions of the configuration and their arguments. -/

namespace Sys2Proof.Machine

open Sys2Proof

/-- `REG.vendor_of`: total; a manufacturer ID that the table does not list is Unknown (R7, R135). -/
def vendorOf (c : Config) (m : Byte) : Vendor := (c.vendorTable.lookup m).getD .unknown

/-- `REG.part`: the part number of a manufacturer ID and an effective device-type, if listed (R7). -/
def partOf (c : Config) (m t : Byte) : Option String := c.partTable.lookup (m, t)

/-- `REG.dens`: the density entry of a manufacturer ID and a density-code, if listed (R7, R27). -/
def densOf (c : Config) (m d : Byte) : Option DensityEntry := c.densTable.lookup (m, d)

/-- `REG.opc`: the compiled-in opcode of a vendor, a slot and a width, if defined (R7, R101). -/
def regOpc (c : Config) (v : Vendor) (slot : Slot) (w : AddrWidth) : Option Byte := c.opcTable.lookup (v, slot, w)

/-- The generic layout, used when the layout is unresolved (R28). -/
def genericLayout (c : Config) : StatusLayout :=
  { busyBit := c.genBusyBit, welBit := c.genWelBit, perr := none, eerr := none }

/-- The Unknown profile (R137). -/
def unknownProfile (c : Config) : Profile :=
  { vendor := .unknown, partNumber := none, densOk := false, addrWidth := .three, pageSize := 0, sectorSize := 0,
    blockSize := 0, density := 0, layout := genericLayout c }

/-- The profile of a known vendor from the results of the two lookups, which are independent (R135, R136, R138). -/
def profileFrom (c : Config) (v : Vendor) (part : Option String) : Option DensityEntry → Profile
  | some e =>
    { vendor := v, partNumber := part, densOk := true, addrWidth := e.addrWidth, pageSize := e.pageSize,
      sectorSize := e.sectorSize, blockSize := e.blockSize, density := e.density, layout := e.layout }
  | none =>
    { vendor := v, partNumber := part, densOk := false, addrWidth := .three, pageSize := 0, sectorSize := 0,
      blockSize := 0, density := 0, layout := genericLayout c }

/-- `Resolve(m, t_eff, d)` (R135): the profile, and whether the vendor is known and both lookups succeeded. -/
def resolve (c : Config) (m tEff d : Byte) : Profile × Bool :=
  match vendorOf c m with
  | .unknown => (unknownProfile c, false)
  | v => (profileFrom c v (partOf c m tEff) (densOf c m d), (partOf c m tEff).isSome && (densOf c m d).isSome)

/-- `Opc(P, slot)`, the vendor profile multiplexer (R102). -/
def opc (c : Config) (p : Profile) (slot : Slot) : Option Byte :=
  match slot with
  | .rdid => some c.opcRdid
  | .rdsr => some c.opcRdsr
  | .eid => some c.opcEid
  | .rsten => if p.vendor = .unknown then some c.genRsten else regOpc c p.vendor .rsten p.addrWidth
  | .rst => if p.vendor = .unknown then some c.genRst else regOpc c p.vendor .rst p.addrWidth
  | slot => regOpc c p.vendor slot p.addrWidth

/-- The opcode byte sent for a slot: the multiplexer's, or a free value where the registry leaves the slot undefined,
which a well-formed registry never lets an operation reach (R101; log 8). -/
def opByte (c : Config) (p : Profile) (slot : Slot) : Byte :=
  (opc c p slot).getD (Config.freeOpcode p.vendor slot p.addrWidth)

/-- A profile that admits read, program and erase (R153). -/
def operable (p : Profile) : Bool := decide (p.vendor ≠ .unknown) && p.densOk

end Sys2Proof.Machine
end

