-- ==== Sys2Proof/Syntax.lean ====
section
/-! DEFINITION. The whole instruction syntax: the twelve bus transaction formats (rule R106), the host request REQ as
words (R91), and `Instr` with one constructor per row of spec/opcode_table.json (R92, R93, R106). -/

namespace Sys2Proof

/-- The twelve bracket formats of rule R106, with the operands the format carries. -/
inductive BusCmd where
  | rdid
  | eid
  | rdsr
  | rdsr2
  | wren
  | pp (addr : Word) (data : List Byte)
  | ce
  | be (addr : Word)
  | read (addr : Word) (len : Word)
  | rsten
  | rst
  | en4b
  deriving DecidableEq, Repr

/-- A host request as the words the host presents (format REQ, R91): the header byte and every operand field. -/
structure Request where
  hdr : Byte
  sel : Byte
  addr : Word
  len : Word
  budget : Word
  pattern : Byte
  data : List Byte
  deriving DecidableEq, Repr

/-- One constructor per row of the opcode table. `k` is the handle index `idx`, 4 bits. The bus formats name the
handle whose select line and profile the bracket uses (R106). -/
inductive Instr where
  | identify (k : BitVec 4)
  | read (k : BitVec 4) (addr : Word) (len : Word)
  | program (k : BitVec 4) (addr : Word) (data : List Byte) (budget : Word)
  | eraseChip (k : BitVec 4) (budget : Word)
  | eraseBlock (k : BitVec 4) (addr : Word) (budget : Word)
  | readStatus (k : BitVec 4)
  | softwareReset (k : BitVec 4)
  | hardwareReset (k : BitVec 4)
  | bindDevice (k : BitVec 4) (sel : Byte)
  | readVerify (k : BitVec 4) (addr : Word) (len : Word) (pattern : Byte)
  | reservedAB (k : BitVec 4) (x : BitVec 1)
  | reservedCF (k : BitVec 4) (x : BitVec 2)
  | bRdid (k : BitVec 4)
  | bEid (k : BitVec 4)
  | bRdsr (k : BitVec 4)
  | bRdsr2 (k : BitVec 4)
  | bWren (k : BitVec 4)
  | bPp (k : BitVec 4) (addr : Word) (data : List Byte)
  | bCe (k : BitVec 4)
  | bBe (k : BitVec 4) (addr : Word)
  | bRead (k : BitVec 4) (addr : Word) (len : Word)
  | bRsten (k : BitVec 4)
  | bRst (k : BitVec 4)
  | bEn4b (k : BitVec 4)
  deriving DecidableEq, Repr

/-- The handle index an instruction names. -/
def Instr.index : Instr → BitVec 4
  | .identify k => k
  | .read k _ _ => k
  | .program k _ _ _ => k
  | .eraseChip k _ => k
  | .eraseBlock k _ _ => k
  | .readStatus k => k
  | .softwareReset k => k
  | .hardwareReset k => k
  | .bindDevice k _ => k
  | .readVerify k _ _ _ => k
  | .reservedAB k _ => k
  | .reservedCF k _ => k
  | .bRdid k => k
  | .bEid k => k
  | .bRdsr k => k
  | .bRdsr2 k => k
  | .bWren k => k
  | .bPp k _ _ => k
  | .bCe k => k
  | .bBe k _ => k
  | .bRead k _ _ => k
  | .bRsten k => k
  | .bRst k => k
  | .bEn4b k => k

/-- The bus format an instruction is, or none for a host request. -/
def Instr.busCmd : Instr → Option BusCmd
  | .identify _ => none
  | .read _ _ _ => none
  | .program _ _ _ _ => none
  | .eraseChip _ _ => none
  | .eraseBlock _ _ _ => none
  | .readStatus _ => none
  | .softwareReset _ => none
  | .hardwareReset _ => none
  | .bindDevice _ _ => none
  | .readVerify _ _ _ _ => none
  | .reservedAB _ _ => none
  | .reservedCF _ _ => none
  | .bRdid _ => some .rdid
  | .bEid _ => some .eid
  | .bRdsr _ => some .rdsr
  | .bRdsr2 _ => some .rdsr2
  | .bWren _ => some .wren
  | .bPp _ a d => some (.pp a d)
  | .bCe _ => some .ce
  | .bBe _ a => some (.be a)
  | .bRead _ a n => some (.read a n)
  | .bRsten _ => some .rsten
  | .bRst _ => some .rst
  | .bEn4b _ => some .en4b

/-- A host request (format REQ of the table), reserved codes included; the other rows are format BUS. -/
def Instr.isRequest (i : Instr) : Bool := i.busCmd.isNone

/-- The bus format as the instruction that emits it for handle `k`. -/
def BusCmd.toInstr (k : BitVec 4) : BusCmd → Instr
  | .rdid => .bRdid k
  | .eid => .bEid k
  | .rdsr => .bRdsr k
  | .rdsr2 => .bRdsr2 k
  | .wren => .bWren k
  | .pp a d => .bPp k a d
  | .ce => .bCe k
  | .be a => .bBe k a
  | .read a n => .bRead k a n
  | .rsten => .bRsten k
  | .rst => .bRst k
  | .en4b => .bEn4b k

end Sys2Proof
end

