-- ==== Sys2Proof/WellFormed.lean ====
section
/-! DEFINITION. What a well-formed configuration is (rules R7, R27, R101) and what a well-formed instruction is (R91,
R93, R131). Each check is a Bool of its own; Tests/Slice0.lean shows an ill-formed term that each refuses. The machine
itself is total: an ill-formed request is answered InvalidRequest, and ill-formedness of the registry is a hypothesis
(93_implementation_defined.md U11). -/

namespace Sys2Proof

open Sys2Proof.Machine

/-- `NUM_HANDLES` is 1 to 15 and `NUM_SELECT` at least 1 (R7). -/
def Config.countsOk (c : Config) : Bool :=
  decide (1 ≤ c.numHandles) && decide (c.numHandles ≤ 15) && decide (1 ≤ c.numSelect)

/-- `GEN_BUSY_BIT` and `GEN_WEL_BIT` are distinct (R7). -/
def Config.genericBitsOk (c : Config) : Bool := decide (c.genBusyBit ≠ c.genWelBit)

/-- `T_SRST_SETTLE > 0`, `T_HRST_HOLD > 0`, `T_HRST_SETTLE > T_HRST_HOLD`; `T_POLL` may be zero (R7, R207). -/
def Config.delaysOk (c : Config) : Bool :=
  decide (0 < c.tSrstSettle) && decide (0 < c.tHrstHold) && decide (c.tHrstHold < c.tHrstSettle)

/-- Each table lists a key once, so that the list is the table's graph (log 14). -/
def Config.keysOk (c : Config) : Bool :=
  decide (c.vendorTable.map Prod.fst).Nodup && decide (c.partTable.map Prod.fst).Nodup &&
    decide (c.densTable.map Prod.fst).Nodup && decide (c.opcTable.map Prod.fst).Nodup

/-- The constraints of rule R27 on one density entry. -/
def DensityEntry.ok (e : DensityEntry) : Bool :=
  decide (0 < e.pageSize.toNat) && decide (0 < e.sectorSize.toNat) && decide (0 < e.blockSize.toNat) &&
    decide (0 < e.density.toNat) && decide (e.density.toNat ≤ 2 ^ (8 * widthBytes e.addrWidth)) &&
    (decide (e.density.toNat ≤ 2 ^ 24) || decide (e.addrWidth = .four))

/-- Every density entry meets rule R27. -/
def Config.densityOk (c : Config) : Bool := c.densTable.all fun row => row.2.ok

/-- A layout that places an error flag in register SEC. -/
def StatusLayout.usesSec (l : StatusLayout) : Bool :=
  (l.perr.any fun p => decide (p.reg = .sec)) || (l.eerr.any fun p => decide (p.reg = .sec))

/-- The reset opcodes of every known vendor are defined at both widths (R101). -/
def Config.resetOpcodesOk (c : Config) : Bool :=
  [Vendor.macronix, .infineon, .micron].all fun v =>
    [AddrWidth.three, .four].all fun w => (regOpc c v .rsten w).isSome && (regOpc c v .rst w).isSome

/-- The opcodes that a density entry of vendor `v` requires (R101). -/
def Config.entryOpcodesOk (c : Config) (v : Vendor) (e : DensityEntry) : Bool :=
  ([Slot.wren, .read, .pp, .ce, .be].all fun s => (regOpc c v s e.addrWidth).isSome) &&
    (decide (e.addrWidth = .three) || (regOpc c v .en4b .four).isSome) &&
    (!e.layout.usesSec || (regOpc c v .rdsr2 e.addrWidth).isSome)

/-- Every density entry of a known vendor has its opcodes (R101). -/
def Config.arrayOpcodesOk (c : Config) : Bool :=
  c.densTable.all fun row =>
    decide (vendorOf c row.1.1 = .unknown) || c.entryOpcodesOk (vendorOf c row.1.1) row.2

/-- `REG.opc(Unknown, s, w)` is undefined for every slot and width (R101). -/
def Config.unknownEmpty (c : Config) : Bool := c.opcTable.all fun row => decide (row.1.1 ≠ .unknown)

/-- A well-formed configuration: the constraints of rules R7, R27 and R101. -/
def Config.wf (c : Config) : Bool :=
  c.countsOk && c.genericBitsOk && c.delaysOk && c.keysOk && c.densityOk && c.resetOpcodesOk && c.arrayOpcodesOk &&
    c.unknownEmpty

/-- The handle index is 1 to `NUM_HANDLES` (R91). -/
def indexOk (c : Config) (k : BitVec 4) : Bool := decide (1 ≤ k.toNat) && decide (k.toNat ≤ c.numHandles)

/-- The instruction is not a reserved operation code (R93). -/
def Instr.notReserved : Instr → Bool
  | .reservedAB _ _ => false
  | .reservedCF _ _ => false
  | _ => true

/-- The select line of a bind_device exists: `sel < NUM_SELECT` (R131). -/
def Instr.selectOk (c : Config) : Instr → Bool
  | .bindDevice _ sel => decide (sel.toNat < c.numSelect)
  | _ => true

/-- A well-formed instruction: a valid index, no reserved code, an existing select line. -/
def Instr.wf (c : Config) (i : Instr) : Bool := indexOk c i.index && i.notReserved && i.selectOk c

/-- All slots (R100), in the rule's order. -/
def Slot.all : List Slot := [.rdid, .rdsr, .eid, .wren, .read, .pp, .ce, .be, .rdsr2, .rsten, .rst, .en4b]

/-- The opcodes defined for a profile are pairwise different. Not a constraint of the spec: what a reader of the bus
needs to tell the formats apart. -/
def opcodesDistinct (c : Config) (p : Profile) : Bool := decide (Slot.all.filterMap (opc c p)).Nodup

end Sys2Proof
end

