-- ==== Sys2Proof/Decode.lean ====
section
/-! DEFINITION. The two encodings (30_encoding.md). Toward the host: `decode` reads a request, total on every request,
and `encode` writes it (rules R91 to R93). Toward the chip: `encodeBus` writes the bytes of the twelve bracket formats
(R106) and `decodeBus` reads a bracket back. Also the numeric codes of the enumerations (R25, R30). -/

namespace Sys2Proof

open Sys2Proof.Machine

/-- `op = hdr[3:0]` (R91). -/
def Request.op (q : Request) : BitVec 4 := q.hdr.extractLsb' 0 4

/-- `idx = hdr[7:4]` (R91). -/
def Request.idx (q : Request) : BitVec 4 := q.hdr.extractLsb' 4 4

/-- The request decoder (R92, R93): total; an operand the operation does not use is ignored (R91). -/
def decode (q : Request) : Instr :=
  match q.op.toNat with
  | 0 => .identify q.idx
  | 1 => .read q.idx q.addr q.len
  | 2 => .program q.idx q.addr q.data q.budget
  | 3 => .eraseChip q.idx q.budget
  | 4 => .eraseBlock q.idx q.addr q.budget
  | 5 => .readStatus q.idx
  | 6 => .softwareReset q.idx
  | 7 => .hardwareReset q.idx
  | 8 => .bindDevice q.idx q.sel
  | 9 => .readVerify q.idx q.addr q.len q.pattern
  | 10 => .reservedAB q.idx 0
  | 11 => .reservedAB q.idx 1
  | _ => .reservedCF q.idx (q.op.extractLsb' 0 2)

/-- A request with header byte `idx ++ op` and every operand field zero. -/
def Request.ofHeader (k op : BitVec 4) : Request :=
  { hdr := k ++ op, sel := 0, addr := 0, len := 0, budget := 0, pattern := 0, data := [] }

/-- The request encoder (R91, R92, and the reserved rows 101x and 11xx): unused operand fields are zero. A bus format
is no request and has none. -/
def encode : Instr → Option Request
  | .identify k => some (Request.ofHeader k 0x0)
  | .read k a n => some { Request.ofHeader k 0x1 with addr := a, len := n }
  | .program k a d b => some { Request.ofHeader k 0x2 with addr := a, data := d, budget := b }
  | .eraseChip k b => some { Request.ofHeader k 0x3 with budget := b }
  | .eraseBlock k a b => some { Request.ofHeader k 0x4 with addr := a, budget := b }
  | .readStatus k => some (Request.ofHeader k 0x5)
  | .softwareReset k => some (Request.ofHeader k 0x6)
  | .hardwareReset k => some (Request.ofHeader k 0x7)
  | .bindDevice k l => some { Request.ofHeader k 0x8 with sel := l }
  | .readVerify k a n p => some { Request.ofHeader k 0x9 with addr := a, len := n, pattern := p }
  | .reservedAB k x => some (Request.ofHeader k ((0b101 : BitVec 3) ++ x))
  | .reservedCF k x => some (Request.ofHeader k ((0b11 : BitVec 2) ++ x))
  | .bRdid _ => none
  | .bEid _ => none
  | .bRdsr _ => none
  | .bRdsr2 _ => none
  | .bWren _ => none
  | .bPp _ _ _ => none
  | .bCe _ => none
  | .bBe _ _ => none
  | .bRead _ _ _ => none
  | .bRsten _ => none
  | .bRst _ => none
  | .bEn4b _ => none

/-- The table's (mask, match) pair on the header byte, for the rows of format REQ (R92, R93). -/
def Instr.headerRow : Instr → Option (Byte × Byte)
  | .identify _ => some (0x0F, 0x00)
  | .read _ _ _ => some (0x0F, 0x01)
  | .program _ _ _ _ => some (0x0F, 0x02)
  | .eraseChip _ _ => some (0x0F, 0x03)
  | .eraseBlock _ _ _ => some (0x0F, 0x04)
  | .readStatus _ => some (0x0F, 0x05)
  | .softwareReset _ => some (0x0F, 0x06)
  | .hardwareReset _ => some (0x0F, 0x07)
  | .bindDevice _ _ => some (0x0F, 0x08)
  | .readVerify _ _ _ _ => some (0x0F, 0x09)
  | .reservedAB _ _ => some (0x0E, 0x0A)
  | .reservedCF _ _ => some (0x0C, 0x0C)
  | .bRdid _ => none
  | .bEid _ => none
  | .bRdsr _ => none
  | .bRdsr2 _ => none
  | .bWren _ => none
  | .bPp _ _ _ => none
  | .bCe _ => none
  | .bBe _ _ => none
  | .bRead _ _ _ => none
  | .bRsten _ => none
  | .bRst _ => none
  | .bEn4b _ => none

/-- The request whose header is the table word `w` of `nbits` bits, every operand field zero. The table numbers the
eight bits of the header byte and gives operand fields no bits (log 11). -/
def requestOfTableWord (nbits w : Nat) : Request :=
  { hdr := BitVec.ofNat 8 (w % 2 ^ nbits), sel := 0, addr := 0, len := 0, budget := 0, pattern := 0, data := [] }

/-- The instruction the decoder reads from a table word. A word with bits above the header byte is no word of the
table and is refused. -/
def decodeTableWord (nbits w : Nat) : Option Instr :=
  if w % 2 ^ nbits < 256 then some (decode (requestOfTableWord nbits w)) else none

/-! The bus side. -/

/-- The bytes a bracket of format `cmd` sends, in order (R106), for profile `p`; `n` is the exchange number at which
the bracket begins (it matters only to the free bytes of an address that does not fit). -/
def encodeBus (c : Config) (n : Nat) (p : Profile) : BusCmd → List Byte
  | .rdid => [opByte c p .rdid, c.dummy, c.dummy, c.dummy]
  | .eid => [opByte c p .eid] ++ List.replicate c.eidDummy c.dummy ++ [c.dummy]
  | .rdsr => [opByte c p .rdsr, c.dummy]
  | .rdsr2 => [opByte c p .rdsr2, c.dummy]
  | .wren => [opByte c p .wren]
  | .pp a data => [opByte c p .pp] ++ addrBytes n p.addrWidth a ++ data
  | .ce => [opByte c p .ce]
  | .be a => [opByte c p .be] ++ addrBytes n p.addrWidth a
  | .read a len => [opByte c p .read] ++ addrBytes n p.addrWidth a ++ List.replicate len.toNat c.dummy
  | .rsten => [opByte c p .rsten]
  | .rst => [opByte c p .rst]
  | .en4b => [opByte c p .en4b]

/-- The address at the head of a byte list, most significant byte first, and the rest (R62). -/
def splitAddr (w : AddrWidth) (bytes : List Byte) : Option (Word × List Byte) :=
  match w, bytes with
  | .three, b2 :: b1 :: b0 :: rest => some ((0 : Byte) ++ b2 ++ b1 ++ b0, rest)
  | .four, b3 :: b2 :: b1 :: b0 :: rest => some (b3 ++ b2 ++ b1 ++ b0, rest)
  | _, _ => none

/-- Reads a bracket's bytes back as one of the twelve formats under profile `p` (R106), the first that fits in the
order of the table; none where no format fits (R110). -/
def decodeBus (c : Config) (p : Profile) (bytes : List Byte) : Option BusCmd :=
  match bytes with
  | [] => none
  | o :: rest =>
    if opc c p .rdid = some o ∧ rest = List.replicate 3 c.dummy then some .rdid
    else if opc c p .eid = some o ∧ rest = List.replicate (c.eidDummy + 1) c.dummy then some .eid
    else if opc c p .rdsr = some o ∧ rest = [c.dummy] then some .rdsr
    else if opc c p .rdsr2 = some o ∧ rest = [c.dummy] then some .rdsr2
    else if opc c p .wren = some o ∧ rest = [] then some .wren
    else if opc c p .pp = some o then (splitAddr p.addrWidth rest).map fun r => .pp r.1 r.2
    else if opc c p .ce = some o ∧ rest = [] then some .ce
    else if opc c p .be = some o then
      (splitAddr p.addrWidth rest).bind fun r => if r.2 = [] then some (.be r.1) else none
    else if opc c p .read = some o then
      (splitAddr p.addrWidth rest).bind fun r =>
        if r.2 = List.replicate r.2.length c.dummy ∧ r.2.length < 2 ^ 32 then
          some (.read r.1 (BitVec.ofNat 32 r.2.length))
        else none
    else if opc c p .rsten = some o ∧ rest = [] then some .rsten
    else if opc c p .rst = some o ∧ rest = [] then some .rst
    else if opc c p .en4b = some o ∧ rest = [] then some .en4b
    else none

/-- The opcode slot of a format (R106). -/
def BusCmd.slot : BusCmd → Slot
  | .rdid => .rdid
  | .eid => .eid
  | .rdsr => .rdsr
  | .rdsr2 => .rdsr2
  | .wren => .wren
  | .pp _ _ => .pp
  | .ce => .ce
  | .be _ => .be
  | .read _ _ => .read
  | .rsten => .rsten
  | .rst => .rst
  | .en4b => .en4b

/-- The address a format carries, if any (R106). -/
def BusCmd.addr : BusCmd → Option Word
  | .pp a _ => some a
  | .be a => some a
  | .read a _ => some a
  | .rdid => none
  | .eid => none
  | .rdsr => none
  | .rdsr2 => none
  | .wren => none
  | .ce => none
  | .rsten => none
  | .rst => none
  | .en4b => none

/-- The vendor tag's 2-bit code (R25). -/
def vendorCode : Vendor → BitVec 2
  | .macronix => 0
  | .infineon => 1
  | .micron => 2
  | .unknown => 3

end Sys2Proof
end

