-- ==== Sys2Proof/Machine/Flags.lean ====
section
/-! DEFINITION. The status-register decoder (rule R225): four flags from a layout and two status bytes. -/

namespace Sys2Proof.Machine

open Sys2Proof

/-- The four status flags `{busy, wel, perr, eerr}` (R33). -/
structure StatusFlags where
  busy : Bool
  wel : Bool
  perr : Bool
  eerr : Bool
  deriving DecidableEq, Repr

/-- Bit `i` of a byte, as a flag: 1 means set (R9, R225). -/
def bitOf (b : Byte) (i : Fin 8) : Bool := b.getLsbD i.val

/-- `Flag(position, s1, s2)` (R225): a flag without a position is 0. -/
def flagAt (pos : Option FlagPos) (s1 s2 : Byte) : Bool :=
  match pos with
  | none => false
  | some ⟨.pri, b⟩ => bitOf s1 b
  | some ⟨.sec, b⟩ => bitOf s2 b

/-- `Decode(L, s1, s2)` (R225), total on all byte pairs. -/
def decodeStatus (l : StatusLayout) (s1 s2 : Byte) : StatusFlags :=
  { busy := bitOf s1 l.busyBit, wel := bitOf s1 l.welBit, perr := flagAt l.perr s1 s2, eerr := flagAt l.eerr s1 s2 }

end Sys2Proof.Machine
end

