-- ==== Sys2Proof/Machine/State.lean ====
section
/-! DEFINITION. The state as plain data (10_state.md), the events, responses and stops, and the state after the block's
reset (rules R46, R280). -/

namespace Sys2Proof.Machine

open Sys2Proof

/-- The mode of a handle: six values, exactly one at a time (R30). Codes 6 and 7 are unrepresentable (U5). -/
inductive Mode where
  | standby | reading | writing | erasing | softwareReset | hardwareReset
  deriving DecidableEq, Repr

/-- The status snapshot of a handle: `snap_valid` and the four flags (R21, R33). -/
structure Snapshot where
  valid : Bool
  flags : StatusFlags
  deriving DecidableEq, Repr

/-- A device handle `H[k]` (R21). While `bound` is false the other fields mean nothing (R46). -/
structure Handle where
  bound : Bool
  selectLine : Nat
  profile : Profile
  mode : Mode
  snap : Snapshot
  mismatch : Word
  deriving DecidableEq, Repr

/-- The event alphabet (R11). `Xfer(o) -> i` carries the byte sent and the byte that came back; a `Delay` carries its
lower bound (R301); a line event the level driven (true is high). -/
inductive Event where
  | select (l : Nat)
  | xfer (o i : Byte)
  | deselect (l : Nat)
  | delay (t : Nat)
  | resetLine (high : Bool)
  | wpDeasserted
  deriving DecidableEq, Repr

/-- The seven result codes (R240). Code 7 is unrepresentable (U5). -/
inductive Code where
  | ok | capabilityError | alignmentError | busyTimeout | identificationUnresolved | notReady | invalidRequest
  deriving DecidableEq, Repr

/-- The values returned beside the code (R94). Sector indices are exact naturals (R195; log 15). -/
inductive Values where
  | nothing
  | profile (p : Profile)
  | data (bytes : List Byte)
  | verified (bytes : List Byte) (mismatch : Word) (badSectors : List Nat)
  | snapshot (s : Snapshot)
  deriving DecidableEq, Repr

/-- A response (R94). -/
structure Response where
  code : Code
  values : Values
  deriving DecidableEq, Repr

/-- What the host presents to the block: a request (R91), or the block's reset input (R280). -/
inductive HostInput where
  | request (q : Request)
  | blockReset
  deriving DecidableEq, Repr

/-- The whole state (R20), the parameters (R7; log 2), and the model's own fields: the host's pending inputs (log 4),
the chips' answers (log 3), and the output so far (log 12). -/
structure State where
  /-- The parameters of rule R7. No step writes this field (R8). -/
  cfg : Config
  /-- The handle bank: item `j` is `H[j+1]`. -/
  handles : List Handle
  /-- `bus_sel`: the asserted chip-select line while a bracket is open (R41). -/
  busSel : Option Nat
  /-- The chip-select lines' levels, true is asserted (R42). -/
  csLines : List Bool
  /-- The hardware-reset line, true is high, inactive (R42, R43). -/
  resetHigh : Bool
  /-- The write-protect line, true is asserted (R42). -/
  wpAsserted : Bool
  /-- Host inputs not yet taken, in order (log 4). -/
  pending : List HostInput
  /-- Bytes the chips will answer, oldest first; when it is empty an answer is a free value (log 3). -/
  incoming : List Byte
  /-- How many bytes have been exchanged: the argument of the free answers (log 3). -/
  xferCount : Nat
  /-- Every event emitted so far, in order (R11, R72; log 12). -/
  events : List Event
  /-- Every response given so far, in order (R94; log 12). -/
  responses : List Response
  deriving DecidableEq, Repr

/-- Why the machine stops. -/
inductive Fault where
  /-- Raised by the twelve bus-format instructions alone, for an index that names no bound handle: the format has no
  profile and no line to be sent on (R106). Safe: the block never gets there (log 10). -/
  | unboundBusFormat
  deriving DecidableEq, Repr

/-- Why the model gives no meaning. -/
inductive Refusal where
  /-- An instruction without a meaning in the model; no arm raises it. Safe. -/
  | notModelled (mnemonic : String)
  deriving DecidableEq, Repr

/-- The snapshot before the first status read: invalid, the flags 0 (R33). -/
def Snapshot.empty : Snapshot := ⟨false, ⟨false, false, false, false⟩⟩

/-- An unbound handle. Only `bound` is the spec's (R46); the other fields are a DESIGN CHOICE (log 5). -/
def Handle.unbound (c : Config) : Handle :=
  { bound := false, selectLine := 0, profile := unknownProfile c, mode := .standby, snap := Snapshot.empty,
    mismatch := 0 }

/-- The state after the block's reset with configuration `c` (R46, R280). -/
def State.resetOf (c : Config) : State :=
  { cfg := c, handles := List.replicate c.numHandles (Handle.unbound c), busSel := none,
    csLines := List.replicate c.numSelect false, resetHigh := true, wpAsserted := false, pending := [], incoming := [],
    xferCount := 0, events := [.wpDeasserted], responses := [] }

/-- The machine right after reset, with the illustrative configuration (log 2). -/
def State.reset : State := State.resetOf Config.illustrative

end Sys2Proof.Machine
end

