-- ==== Sys2Proof/Machine/Ops.lean ====
section
/-! DEFINITION. The shared operations: the handle bank, the bus and the lines event by event, brackets, the response
that ends an operation (`raise` and `return`, rule R12), taking a host input, and the block's reset. -/

namespace Sys2Proof.Machine

open Sys2Proof

/-! Handles. -/

/-- `H[k]`; an index outside the bank reads as an unbound handle. -/
def State.handle (s : State) (k : BitVec 4) : Handle :=
  if k = 0 then Handle.unbound s.cfg else s.handles.getD (k.toNat - 1) (Handle.unbound s.cfg)

/-- Writes `H[k]`; an index outside the bank writes nothing. -/
def State.setHandle (s : State) (k : BitVec 4) (h : Handle) : State :=
  if k = 0 then s else { s with handles := s.handles.set (k.toNat - 1) h }

/-- `H[k].mode <- m` (R10). -/
def State.setMode (s : State) (k : BitVec 4) (m : Mode) : State := s.setHandle k { s.handle k with mode := m }

/-- `H[k].profile <- P`. -/
def State.setProfile (s : State) (k : BitVec 4) (p : Profile) : State :=
  s.setHandle k { s.handle k with profile := p }

/-- `H[k].snap_* <- S` with `snap_valid <- 1` (R226). -/
def State.setSnap (s : State) (k : BitVec 4) (f : StatusFlags) : State :=
  s.setHandle k { s.handle k with snap := ⟨true, f⟩ }

/-- `H[k].mismatch <- n`. -/
def State.setMismatch (s : State) (k : BitVec 4) (n : Word) : State :=
  s.setHandle k { s.handle k with mismatch := n }

/-! The bus and the lines, one event at a time. -/

/-- The byte the chip answers in the `i`-th exchange from now: any byte (R44, U8; log 3). -/
def State.answer (s : State) (i : Nat) : Byte := s.incoming.getD i (Config.freeByte (s.xferCount + i))

/-- `Select(l)` (R11, R41, R42). -/
def select (l : Nat) (s : State) : State :=
  { s with busSel := some l, csLines := s.csLines.set l true, events := s.events ++ [.select l] }

/-- `Xfer(o) -> i`: the byte that came back, and the state after (R11). -/
def xfer (o : Byte) (s : State) : Byte × State :=
  (s.answer 0,
    { s with incoming := s.incoming.tail, xferCount := s.xferCount + 1, events := s.events ++ [.xfer o (s.answer 0)] })

/-- Exchanges a list of bytes in order. -/
def xferAll : List Byte → State → List Byte × State
  | [], s => ([], s)
  | o :: out, s => ((xfer o s).1 :: (xferAll out (xfer o s).2).1, (xferAll out (xfer o s).2).2)

/-- `Deselect(l)` (R11, R41, R42). -/
def deselect (l : Nat) (s : State) : State :=
  { s with busSel := none, csLines := s.csLines.set l false, events := s.events ++ [.deselect l] }

/-- `Bracket(l, out)`: the bytes that came back, and the state after (R11). -/
def bracket (l : Nat) (out : List Byte) (s : State) : List Byte × State :=
  ((xferAll out (select l s)).1, deselect l (xferAll out (select l s)).2)

/-- `Delay(T)` (R11). -/
def delay (t : Nat) (s : State) : State := { s with events := s.events ++ [.delay t] }

/-- `ResetLine <- level` (R11, R42). -/
def driveReset (high : Bool) (s : State) : State :=
  { s with resetHigh := high, events := s.events ++ [.resetLine high] }

/-- `WpLine <- deasserted` (R11, R42). -/
def deassertWp (s : State) : State := { s with wpAsserted := false, events := s.events ++ [.wpDeasserted] }

/-- A bracket of one of the twelve formats on line `l` with profile `p` (R106): the bytes that came back, and the
state after. Every bracket the block emits is one of these (R110). -/
def emit (l : Nat) (p : Profile) (cmd : BusCmd) (s : State) : List Byte × State :=
  bracket l (encodeBus s.cfg s.xferCount p cmd) s

/-- The same for handle `k`: on its select line, with its profile (R106). -/
def emitFor (k : BitVec 4) (cmd : BusCmd) (s : State) : List Byte × State :=
  emit (s.handle k).selectLine (s.handle k).profile cmd s

/-- `MemRead(k, addr, n)` (R66): the last `n` returned bytes. -/
def memRead (k : BitVec 4) (addr len : Word) (s : State) : List Byte × State :=
  ((emitFor k (.read addr len) s).1.drop (1 + widthBytes (s.handle k).profile.addrWidth),
    (emitFor k (.read addr len) s).2)

/-- `MemWrite(k, addr, n, v)` (R67): the write-enable bracket, then the program bracket, nothing between. -/
def memWrite (k : BitVec 4) (addr : Word) (data : List Byte) (s : State) : State :=
  (emitFor k (.pp addr data) (emitFor k .wren s).2).2

/-! Ending an operation. -/

/-- Ends an operation with a code and values (R12, R94, R240). -/
def respond (code : Code) (values : Values) (s : State) : State :=
  { s with responses := s.responses ++ [⟨code, values⟩] }

/-- `raise <Error>` without values: the operation ends, no event and no write after it (R12). -/
def raise (code : Code) (s : State) : State := respond code .nothing s

/-! Admission (41_state_machine.md). -/

/-- The index part of the validity gate: 1 to `NUM_HANDLES` (R151). -/
def validIndex (s : State) (k : BitVec 4) : Bool := indexOk s.cfg k

/-- The validity gate of every operation but bind_device (R151). -/
def validHandle (s : State) (k : BitVec 4) : Bool := validIndex s k && (s.handle k).bound

/-- The three gates shared by read, read_verify, program and erase, in their order: the error, or none (R152 to R154,
R250). -/
def arrayGate (s : State) (k : BitVec 4) : Option Code :=
  if validHandle s k then
    if operable (s.handle k).profile then
      if (s.handle k).mode = .standby then none else some .notReady
    else some .capabilityError
  else some .invalidRequest

/-! The host's side. -/

/-- Takes the next host input: the input, and the state without it; none while the host presents nothing (R280). -/
def fetch (s : State) : Option (HostInput × State) :=
  match s.pending with
  | [] => none
  | i :: rest => some (i, { s with pending := rest })

/-- The block's reset input (R46, R280, R282): every handle unbound, the bus and the lines idle; its single event is
`WpLine <- deasserted`. The parameters survive; so do what the host has yet to present, the chips' answers and the
record of past output, which are not the block's (log 5). -/
def blockReset (s : State) : State :=
  deassertWp
    { s with handles := List.replicate s.cfg.numHandles (Handle.unbound s.cfg), busSel := none,
             csLines := List.replicate s.cfg.numSelect false, resetHigh := true }

/-- The mode's 3-bit code (R30). -/
def modeCode : Mode → BitVec 3
  | .standby => 0
  | .reading => 1
  | .writing => 2
  | .erasing => 3
  | .softwareReset => 4
  | .hardwareReset => 5

/-- The result code's 3-bit number (R240). -/
def codeNumber : Code → BitVec 3
  | .ok => 0
  | .capabilityError => 1
  | .alignmentError => 2
  | .busyTimeout => 3
  | .identificationUnresolved => 4
  | .notReady => 5
  | .invalidRequest => 6

end Sys2Proof.Machine
end

