-- ==== Sys2Proof/Machine/Bus.lean ====
section
/-! DEFINITION. The twelve bus transaction formats as instructions (rule R106): one bracket on the select line of handle
`k`, with its profile. The operations are built from the same `emitFor`; no host request decodes to one of these
(log 10). The bytes that come back are in the events; the block uses those that the operation's rule names. -/

namespace Sys2Proof.Machine

open Sys2Proof

/-- One bracket for handle `k`; a format for a handle that is not bound has no line and no profile (log 10). -/
def busFormat (k : BitVec 4) (cmd : BusCmd) (s : State) : Host.Outcome State Fault Refusal :=
  if validHandle s k then .next (emitFor k cmd s).2 else .fault .unboundBusFormat

/-- `B-RDID`: the three identification bytes (R106, R134). -/
def execBRdid (k : BitVec 4) (s : State) : Host.Outcome State Fault Refusal := busFormat k .rdid s
/-- `B-EID`: the electronic-ID byte (R106, R134). -/
def execBEid (k : BitVec 4) (s : State) : Host.Outcome State Fault Refusal := busFormat k .eid s
/-- `B-RDSR`: the primary status byte (R106, R223). -/
def execBRdsr (k : BitVec 4) (s : State) : Host.Outcome State Fault Refusal := busFormat k .rdsr s
/-- `B-RDSR2`: the secondary status byte (R106, R223). -/
def execBRdsr2 (k : BitVec 4) (s : State) : Host.Outcome State Fault Refusal := busFormat k .rdsr2 s
/-- `B-WREN`: write-enable (R106, R157). -/
def execBWren (k : BitVec 4) (s : State) : Host.Outcome State Fault Refusal := busFormat k .wren s
/-- `B-PP`: program (R106, R171). -/
def execBPp (k : BitVec 4) (addr : Word) (data : List Byte) (s : State) : Host.Outcome State Fault Refusal :=
  busFormat k (.pp addr data) s
/-- `B-CE`: chip erase (R106, R181). -/
def execBCe (k : BitVec 4) (s : State) : Host.Outcome State Fault Refusal := busFormat k .ce s
/-- `B-BE`: block erase (R106, R183). -/
def execBBe (k : BitVec 4) (addr : Word) (s : State) : Host.Outcome State Fault Refusal := busFormat k (.be addr) s
/-- `B-READ`: read the array (R106, R191). -/
def execBRead (k : BitVec 4) (addr len : Word) (s : State) : Host.Outcome State Fault Refusal :=
  busFormat k (.read addr len) s
/-- `B-RSTEN`: reset-enable (R106, R201). -/
def execBRsten (k : BitVec 4) (s : State) : Host.Outcome State Fault Refusal := busFormat k .rsten s
/-- `B-RST`: reset (R106, R201). -/
def execBRst (k : BitVec 4) (s : State) : Host.Outcome State Fault Refusal := busFormat k .rst s
/-- `B-EN4B`: enable 4-byte addressing (R106, R208). -/
def execBEn4b (k : BitVec 4) (s : State) : Host.Outcome State Fault Refusal := busFormat k .en4b s

end Sys2Proof.Machine
end

