-- ==== Sys2Proof/Machine/Status.lean ====
section
/-! DEFINITION. Status read (46_status.md): the procedure `StatusRead` (rule R226), which read_status and the completion
poll share, and the operation `read_status` (R221). -/

namespace Sys2Proof.Machine

open Sys2Proof

/-- The condition of the secondary bracket: the density is resolved and `RDSR2` is defined (R224). -/
def readsSecondary (c : Config) (p : Profile) : Bool := p.densOk && (opc c p .rdsr2).isSome

/-- The side effect of a status read on the mode (R227). -/
def modeAfterStatus (m : Mode) (busy : Bool) : Mode :=
  if busy = false ∧ (m = .writing ∨ m = .erasing) then .standby else m

/-- The bus part of `StatusRead(k)`: the primary byte, the secondary byte (0x00 where no secondary bracket is made),
and the state after (R223, R224, R226). -/
def statusBytes (k : BitVec 4) (s : State) : (Byte × Byte) × State :=
  let r1 := emitFor k .rdsr s
  if readsSecondary s.cfg (s.handle k).profile then
    let r2 := emitFor k .rdsr2 r1.2
    ((r1.1.getD 1 0, r2.1.getD 1 0), r2.2)
  else
    ((r1.1.getD 1 0, 0x00), r1.2)

/-- `StatusRead(k)` (R226): the flags decoded, and the state after. -/
def statusRead (k : BitVec 4) (s : State) : StatusFlags × State :=
  let r := statusBytes k s
  let f := decodeStatus (s.handle k).profile.layout r.1.1 r.1.2
  let s' := r.2.setSnap k f
  (f, s'.setMode k (modeAfterStatus (s'.handle k).mode f.busy))

/-- The values of a response that carries the current snapshot of `H[k]` (R94). -/
def snapshotOf (k : BitVec 4) (s : State) : Values := .snapshot (s.handle k).snap

/-- `read_status k` (R221): admitted in every mode and on every profile. -/
def execReadStatus (k : BitVec 4) (s : State) : Host.Outcome State Fault Refusal :=
  .next (if validHandle s k then
    let s := (statusRead k s).2
    respond .ok (snapshotOf k s) s
  else raise .invalidRequest s)

end Sys2Proof.Machine
end

