-- ==== Sys2Proof/Machine/Completion.lean ====
section
/-! DEFINITION. What every mutating operation shares (41_state_machine.md): the write-enable bracket immediately before
the command bracket (rule R157), and the completion poll (R160 to R162). -/

namespace Sys2Proof.Machine

open Sys2Proof

/-- The delay between two status reads of a poll, emitted when `T_POLL > 0` (R161). -/
def pollDelay (s : State) : State := if 0 < s.cfg.tPoll then delay s.cfg.tPoll s else s

/-- The loop of `Poll(k, budget)` (R161) with `n` status reads left; `first` says that none has been made. The code,
and the state after. The test is on the busy flag just decoded and on nothing else. -/
def pollLoop (k : BitVec 4) : Nat → Bool → State → Code × State
  | 0, _, s => (.busyTimeout, s)
  | n + 1, first, s =>
    let r := statusRead k (if first then s else pollDelay s)
    if r.1.busy then pollLoop k n false r.2 else (.ok, r.2)

/-- `Poll(k, budget)` with the response: Ok or BusyTimeout, and the snapshot of `H[k]` (R94, R161, R162). -/
def poll (k : BitVec 4) (budget : Word) (s : State) : State :=
  let r := pollLoop k budget.toNat true s
  respond r.1 (snapshotOf k r.2) r.2

/-- An erase, after its gates: mode Erasing, the write-enable bracket, the command bracket, the poll (R181, R183). -/
def runErase (k : BitVec 4) (cmd : BusCmd) (budget : Word) (s : State) : State :=
  let s := s.setMode k .erasing
  let s := (emitFor k .wren s).2
  let s := (emitFor k cmd s).2
  poll k budget s

/-- A program, after its gates: mode Writing, `MemWrite`, the poll (R67, R171). -/
def runProgram (k : BitVec 4) (addr : Word) (data : List Byte) (budget : Word) (s : State) : State :=
  let s := s.setMode k .writing
  let s := memWrite k addr data s
  poll k budget s

end Sys2Proof.Machine
end

