-- ==== Sys2Proof/Machine/Erase.lean ====
section
/-! DEFINITION. The operations `erase_chip` and `erase_block` (43_erase.md). Neither checks an address (rule R184). -/

namespace Sys2Proof.Machine

open Sys2Proof

/-- `erase_chip k, budget` (R181). -/
def execEraseChip (k : BitVec 4) (budget : Word) (s : State) : Host.Outcome State Fault Refusal :=
  .next (match arrayGate s k with
    | some e => raise e s
    | none => runErase k .ce budget s)

/-- `erase_block k, addr, budget` (R183): the address as given, in the profile's width (C4). -/
def execEraseBlock (k : BitVec 4) (addr budget : Word) (s : State) : Host.Outcome State Fault Refusal :=
  .next (match arrayGate s k with
    | some e => raise e s
    | none => runErase k (.be addr) budget s)

end Sys2Proof.Machine
end

