-- ==== Sys2Proof/Machine/Program.lean ====
section
/-! DEFINITION. The operation `program` (42_program.md). -/

namespace Sys2Proof.Machine

open Sys2Proof

/-- The alignment test: at most one page, starting on a page boundary (R64, R171). -/
def pageAligned (p : Profile) (addr : Word) (data : List Byte) : Bool :=
  decide (data.length ≤ p.pageSize.toNat) && decide (remainder addr.toNat p.pageSize.toNat = 0)

/-- The gates of program, in order: the three shared ones, then alignment (R172, R250). -/
def programGate (s : State) (k : BitVec 4) (addr : Word) (data : List Byte) : Option Code :=
  match arrayGate s k with
  | some e => some e
  | none => if pageAligned (s.handle k).profile addr data then none else some .alignmentError

/-- `program k, addr, data, budget` (R171). -/
def execProgram (k : BitVec 4) (addr : Word) (data : List Byte) (budget : Word) (s : State) :
    Host.Outcome State Fault Refusal :=
  .next (match programGate s k addr data with
    | some e => raise e s
    | none => runProgram k addr data budget s)

end Sys2Proof.Machine
end

