-- ==== Sys2Proof/Machine/Read.lean ====
section
/-! DEFINITION. The operations `read` and `read_verify` (44_read.md). -/

namespace Sys2Proof.Machine

open Sys2Proof

/-- `read k, addr, len`, after its gates (R191): Reading, the bracket, Standby, the bytes verbatim. -/
def runRead (k : BitVec 4) (addr len : Word) (s : State) : State :=
  let s := s.setMode k .reading
  let r := memRead k addr len s
  respond .ok (.data r.1) (r.2.setMode k .standby)

/-- `read k, addr, len` (R191). -/
def execRead (k : BitVec 4) (addr len : Word) (s : State) : Host.Outcome State Fault Refusal :=
  .next (match arrayGate s k with
    | some e => raise e s
    | none => runRead k addr len s)

/-- The comparison loop of read_verify (R195): `a` is the flash address of the next byte, an exact natural; the count
of mismatching bytes and the list of failing sectors, in which a sector equal to the last one listed is not listed
again. -/
def verifyLoop (pattern : Byte) (sector : Nat) : Nat → List Byte → Word → List Nat → Word × List Nat
  | _, [], n, bad => (n, bad)
  | a, b :: rest, n, bad =>
    if b = pattern then verifyLoop pattern sector (a + 1) rest n bad
    else
      let i := quotient a sector
      verifyLoop pattern sector (a + 1) rest (n + 1) (if bad.getLast? = some i then bad else bad ++ [i])

/-- `read_verify k, addr, len, pattern`, after its gates (R195). -/
def runReadVerify (k : BitVec 4) (addr len : Word) (pattern : Byte) (s : State) : State :=
  let s := s.setMode k .reading
  let s := s.setMismatch k 0
  let r := memRead k addr len s
  let v := verifyLoop pattern (s.handle k).profile.sectorSize.toNat addr.toNat r.1 0 []
  let s := r.2.setMismatch k v.1
  respond .ok (.verified r.1 v.1 v.2) (s.setMode k .standby)

/-- `read_verify k, addr, len, pattern` (R195). -/
def execReadVerify (k : BitVec 4) (addr len : Word) (pattern : Byte) (s : State) : Host.Outcome State Fault Refusal :=
  .next (match arrayGate s k with
    | some e => raise e s
    | none => runReadVerify k addr len pattern s)

end Sys2Proof.Machine
end

