-- ==== Sys2Proof/Machine/Reserved.lean ====
section
/-! DEFINITION. The reserved operation codes (rule R93): no event, no state write, InvalidRequest. -/

namespace Sys2Proof.Machine

open Sys2Proof

/-- The reserved codes 0xA and 0xB (R93). -/
def execReservedAB (_k : BitVec 4) (_x : BitVec 1) (s : State) : Host.Outcome State Fault Refusal :=
  .next (raise .invalidRequest s)

/-- The reserved codes 0xC to 0xF (R93). -/
def execReservedCF (_k : BitVec 4) (_x : BitVec 2) (s : State) : Host.Outcome State Fault Refusal :=
  .next (raise .invalidRequest s)

end Sys2Proof.Machine
end

