-- ==== Sys2Proof/Machine/Identification.lean ====
section
/-! DEFINITION. The operations `identify` and `bind_device` and the bus procedure they share (40_identification.md). -/

namespace Sys2Proof.Machine

open Sys2Proof

/-- `IdentifyBus(l)` (R134): `(m, t_eff, d)` and the state after. The profile `p` given to the formats is not read by
either of them. -/
def identifyBus (l : Nat) (p : Profile) (s : State) : (Byte × Byte × Byte) × State :=
  let r := emit l p .rdid s
  let m := r.1.getD 1 0
  let t := r.1.getD 2 0
  let d := r.1.getD 3 0
  if vendorOf s.cfg m = .macronix then
    let r2 := emit l p .eid r.2
    ((m, r2.1.getD (s.cfg.eidDummy + 1) 0, d), r2.2)
  else ((m, t, d), r.2)

/-- The code of an identification (R139). -/
def identCode (resolved : Bool) : Code := if resolved then .ok else .identificationUnresolved

/-- `identify k`, after its gate (R133): the new profile is stored, and nothing else. -/
def runIdentify (k : BitVec 4) (s : State) : State :=
  let r := identifyBus (s.handle k).selectLine (s.handle k).profile s
  let p := resolve s.cfg r.1.1 r.1.2.1 r.1.2.2
  respond (identCode p.2) (.profile p.1) (r.2.setProfile k p.1)

/-- `identify k` (R133). -/
def execIdentify (k : BitVec 4) (s : State) : Host.Outcome State Fault Refusal :=
  .next (if validHandle s k then runIdentify k s else raise .invalidRequest s)

/-- Some other handle is bound on line `l` (R131). -/
def lineTaken (s : State) (k : BitVec 4) (l : Nat) : Bool :=
  s.handles.zipIdx.any fun x => x.1.bound && decide (x.1.selectLine = l) && decide (x.2 + 1 ≠ k.toNat)

/-- The enable-4-byte-mode bracket of handle `k`, emitted when its profile has width 4 (R131, R208). -/
def enable4b (k : BitVec 4) (s : State) : State :=
  if (s.handle k).profile.addrWidth = .four then (emitFor k .en4b s).2 else s

/-- The handle bind_device creates, before identification has resolved its profile (R131). -/
def Handle.fresh (old : Handle) (l : Nat) : Handle :=
  { bound := true, selectLine := l, profile := old.profile, mode := .standby, snap := Snapshot.empty, mismatch := 0 }

/-- `bind_device k, sel`, after its gates (R131). -/
def runBind (k : BitVec 4) (sel : Byte) (s : State) : State :=
  let s := s.setHandle k (Handle.fresh (s.handle k) sel.toNat)
  let r := identifyBus sel.toNat (s.handle k).profile s
  let p := resolve s.cfg r.1.1 r.1.2.1 r.1.2.2
  let s := enable4b k (r.2.setProfile k p.1)
  respond (identCode p.2) (.profile p.1) s

/-- The refusals of bind_device: a bad index, a line that does not exist, a line another handle holds (R131, R246). -/
def bindRefused (s : State) (k : BitVec 4) (sel : Byte) : Bool :=
  !validIndex s k || decide (s.cfg.numSelect ≤ sel.toNat) || lineTaken s k sel.toNat

/-- `bind_device k, sel` (R131, R132). -/
def execBindDevice (k : BitVec 4) (sel : Byte) (s : State) : Host.Outcome State Fault Refusal :=
  .next (if bindRefused s k sel then raise .invalidRequest s else runBind k sel s)

end Sys2Proof.Machine
end

