-- ==== Sys2Proof/Machine/Reset.lean ====
section
/-! DEFINITION. The operations `software_reset` and `hardware_reset` (45_reset.md): they reset the chip, not the
block. -/

namespace Sys2Proof.Machine

open Sys2Proof

/-- `software_reset k`, after its gate (R201). -/
def runSoftwareReset (k : BitVec 4) (s : State) : State :=
  let s := s.setMode k .softwareReset
  let s := (emitFor k .rsten s).2
  let s := delay s.cfg.tSrstSettle s
  let s := (emitFor k .rst s).2
  let s := enable4b k s
  respond .ok .nothing (s.setMode k .standby)

/-- `software_reset k` (R201): admitted in every mode and on every profile. -/
def execSoftwareReset (k : BitVec 4) (s : State) : Host.Outcome State Fault Refusal :=
  .next (if validHandle s k then runSoftwareReset k s else raise .invalidRequest s)

/-- One enable-4-byte-mode bracket for every bound width-4 handle of a list, in its order (R205, R206). -/
def reenableAll : List Handle → State → State
  | [], s => s
  | h :: rest, s =>
    reenableAll rest
      (if h.bound ∧ h.profile.addrWidth = .four then (emit h.selectLine h.profile .en4b s).2 else s)

/-- A bound handle goes to Standby (R205). -/
def Handle.toStandby (h : Handle) : Handle := if h.bound then { h with mode := .standby } else h

/-- Every bound handle goes to Standby (R205). -/
def standbyAll (s : State) : State := { s with handles := s.handles.map Handle.toStandby }

/-- `hardware_reset k`, after its gate (R205): the pulse, the settle delay, 4-byte mode on every bound width-4 device
in increasing index order, every bound handle to Standby. -/
def runHardwareReset (k : BitVec 4) (s : State) : State :=
  let s := s.setMode k .hardwareReset
  let s := driveReset false s
  let s := delay s.cfg.tHrstHold s
  let s := driveReset true s
  let s := delay s.cfg.tHrstSettle s
  let s := reenableAll s.handles s
  respond .ok .nothing (standbyAll s)

/-- `hardware_reset k` (R205): admitted in every mode and on every profile. -/
def execHardwareReset (k : BitVec 4) (s : State) : Host.Outcome State Fault Refusal :=
  .next (if validHandle s k then runHardwareReset k s else raise .invalidRequest s)

end Sys2Proof.Machine
end

