-- ==== Sys2Proof/Machine/Dispatch.lean ====
section
/-! DEFINITION. One arm per constructor of Instr: the meaning of every row of the opcode table. -/

namespace Sys2Proof.Machine

open Sys2Proof

def exec (i : Instr) (s : State) : Host.Outcome State Fault Refusal :=
  match i with
  | .identify k => Sys2Proof.Machine.execIdentify k s
  | .read k addr len => Sys2Proof.Machine.execRead k addr len s
  | .program k addr data budget => Sys2Proof.Machine.execProgram k addr data budget s
  | .eraseChip k budget => Sys2Proof.Machine.execEraseChip k budget s
  | .eraseBlock k addr budget => Sys2Proof.Machine.execEraseBlock k addr budget s
  | .readStatus k => Sys2Proof.Machine.execReadStatus k s
  | .softwareReset k => Sys2Proof.Machine.execSoftwareReset k s
  | .hardwareReset k => Sys2Proof.Machine.execHardwareReset k s
  | .bindDevice k sel => Sys2Proof.Machine.execBindDevice k sel s
  | .readVerify k addr len pattern => Sys2Proof.Machine.execReadVerify k addr len pattern s
  | .reservedAB k x => Sys2Proof.Machine.execReservedAB k x s
  | .reservedCF k x => Sys2Proof.Machine.execReservedCF k x s
  | .bRdid k => Sys2Proof.Machine.execBRdid k s
  | .bEid k => Sys2Proof.Machine.execBEid k s
  | .bRdsr k => Sys2Proof.Machine.execBRdsr k s
  | .bRdsr2 k => Sys2Proof.Machine.execBRdsr2 k s
  | .bWren k => Sys2Proof.Machine.execBWren k s
  | .bPp k addr data => Sys2Proof.Machine.execBPp k addr data s
  | .bCe k => Sys2Proof.Machine.execBCe k s
  | .bBe k addr => Sys2Proof.Machine.execBBe k addr s
  | .bRead k addr len => Sys2Proof.Machine.execBRead k addr len s
  | .bRsten k => Sys2Proof.Machine.execBRsten k s
  | .bRst k => Sys2Proof.Machine.execBRst k s
  | .bEn4b k => Sys2Proof.Machine.execBEn4b k s

end Sys2Proof.Machine
end

