-- ==== Sys2Proof/Machine/Step.lean ====
section
/-! DEFINITION. One step: take the next host input and run it to its end (rules R6, R72, R280). -/

namespace Sys2Proof.Machine

open Sys2Proof

/-- One step. A request runs as one operation, to its end (R6, R32); the reset input resets the block (R280); while
the host presents nothing the block waits, and nothing changes (R32, R280). -/
def step (s : State) : Host.Outcome State Fault Refusal :=
  match fetch s with
  | none => .next s
  | some (.request q, s') => exec (decode q) s'
  | some (.blockReset, s') => .next (blockReset s')

/-- The state with the request of a table word presented as the host's next input (log 4, log 11). -/
def State.withFetchWord (s : State) (nbits w : Nat) : State :=
  { s with pending := .request (requestOfTableWord nbits w) :: s.pending }

end Sys2Proof.Machine
end

