-- ==== Sys2Proof/Safety.lean ====
section
/-! DEFINITION. The vocabulary of claims: the state invariant, the bus discipline of an event list, and the closed
forms in which statements describe what an operation emits. The machine does not use this file. -/

namespace Sys2Proof.Machine

open Sys2Proof

/-! The bus discipline (rules R11, R41, R68, R295). -/

/-- Where an event list leaves the bus: no bracket open; a bracket open on a line, with or without a byte exchanged;
or the discipline broken. -/
inductive BusPhase where
  | idle
  | opened (l : Nat)
  | moving (l : Nat)
  | broken
  deriving DecidableEq, Repr

/-- One event seen by the discipline: a bracket is `Select(l)`, one or more `Xfer`, `Deselect(l)` with the same `l`,
and no other event between (R11). -/
def busStep : BusPhase → Event → BusPhase
  | .idle, .select l => .opened l
  | .idle, .delay _ => .idle
  | .idle, .resetLine _ => .idle
  | .idle, .wpDeasserted => .idle
  | .opened l, .xfer _ _ => .moving l
  | .moving l, .xfer _ _ => .moving l
  | .moving l, .deselect l' => if l = l' then .idle else .broken
  | _, _ => .broken

/-- Where an event list leaves a bus that was idle. -/
def busPhase (events : List Event) : BusPhase := events.foldl busStep .idle

/-! The invariant. -/

/-- A profile the resolver can yield (R29, R135). -/
def ProfileLegal (c : Config) (p : Profile) : Prop := ∃ m t d : Byte, p = (resolve c m t d).1

/-- The lines of the bound handles, in index order. -/
def boundLines (handles : List Handle) : List Nat := (handles.filter (·.bound)).map (·.selectLine)

/-- What holds of a bound handle between operations: its line exists (R21), its profile comes from the resolver (R29),
its mode is Standby, Writing or Erasing (R31), and an invalid snapshot reads as zeros (R33). -/
structure HandleInv (c : Config) (h : Handle) : Prop where
  line : h.selectLine < c.numSelect
  profile : ProfileLegal c h.profile
  mode : h.mode = .standby ∨ h.mode = .writing ∨ h.mode = .erasing
  snap : h.snap.valid = false → h.snap = Snapshot.empty

/-- What holds between operations, in every state a run can reach. -/
structure State.Inv (s : State) : Prop where
  /-- The registry meets its constraints (R27, R101), a hypothesis on the parameters (U11). -/
  cfgWf : s.cfg.wf = true
  /-- The bank has `NUM_HANDLES` slots (R21). -/
  bank : s.handles.length = s.cfg.numHandles
  /-- No bracket is open (R41). -/
  busIdle : s.busSel = none
  /-- Every chip-select line is deasserted (R42). -/
  csIdle : s.csLines = List.replicate s.cfg.numSelect false
  /-- The hardware-reset line is high (R42). -/
  resetHigh : s.resetHigh = true
  /-- The write-protect line is deasserted (R42). -/
  wpIdle : s.wpAsserted = false
  /-- Every bound handle is sound. -/
  handle : ∀ h ∈ s.handles, h.bound = true → HandleInv s.cfg h
  /-- No two bound handles share a line (R131). -/
  lines : (boundLines s.handles).Nodup
  /-- Everything emitted so far kept the bus discipline and left the bus idle (R41, R295). -/
  trace : busPhase s.events = .idle

/-! Closed forms. -/

/-- The `n` answers of the chips from exchange `i` on, counted from now. -/
def State.answers (s : State) (i n : Nat) : List Byte := (List.range n).map fun j => s.answer (i + j)

/-- The events of a bracket on line `l` that sends `out` and gets `ins` back (R11). -/
def bracketEvents (l : Nat) (out ins : List Byte) : List Event :=
  .select l :: (List.zipWith Event.xfer out ins ++ [.deselect l])

/-- The state after `n` exchanges with the given events, and nothing else changed. -/
def State.advance (s : State) (n : Nat) (evs : List Event) : State :=
  { s with incoming := s.incoming.drop n, xferCount := s.xferCount + n, events := s.events ++ evs }

/-- The events of the bracket that sends `out` on line `l` and begins `i` exchanges from now. -/
def State.bracketAt (s : State) (i l : Nat) (out : List Byte) : List Event :=
  bracketEvents l out (s.answers i out.length)

/-- The state when an array operation on handle `k` is admitted (R151, R153, R154). -/
structure Admitted (s : State) (k : BitVec 4) : Prop where
  inv : s.Inv
  valid : validHandle s k = true
  operable : operable (s.handle k).profile = true
  standby : (s.handle k).mode = .standby

/-- The request's range lies in the device, the precondition of 93_implementation_defined.md U3 (R70). -/
def inRange (p : Profile) (addr : Word) (len : Nat) : Bool :=
  addrFits p.addrWidth addr && decide (addr.toNat + len ≤ p.density.toNat)

/-! Identification (R134). -/

/-- The manufacturer ID that the identification beginning now gets maps to Macronix. -/
def State.idIsMacronix (s : State) : Bool := decide (vendorOf s.cfg (s.answer 1) = .macronix)

/-- The effective device-type (R134): the device-type byte, or for Macronix the last byte of the second bracket. -/
def State.idType (s : State) : Byte :=
  if s.idIsMacronix then s.answer (4 + (s.cfg.eidDummy + 1)) else s.answer 2

/-- How many bytes an identification exchanges. -/
def State.idCount (s : State) : Nat := if s.idIsMacronix then 4 + (s.cfg.eidDummy + 2) else 4

/-- The events of an identification on line `l` (R106, R134). -/
def State.idEvents (s : State) (l : Nat) : List Event :=
  s.bracketAt 0 l [s.cfg.opcRdid, s.cfg.dummy, s.cfg.dummy, s.cfg.dummy] ++
    if s.idIsMacronix then s.bracketAt 4 l ([s.cfg.opcEid] ++ List.replicate s.cfg.eidDummy s.cfg.dummy ++ [s.cfg.dummy])
    else []

/-- The profile and code an identification beginning now resolves to (R135). -/
def State.idResult (s : State) : Profile × Bool := resolve s.cfg (s.answer 1) s.idType (s.answer 3)

/-! Status reads and the poll (R161, R226). -/

/-- How many bytes a status read exchanges: two per bracket (R223, R224). -/
def statusLen (c : Config) (p : Profile) : Nat := if readsSecondary c p then 4 else 2

/-- The events of a status read on line `l` with profile `p` that begins `i` exchanges from now (R226). -/
def State.statusEvents (s : State) (i l : Nat) (p : Profile) : List Event :=
  s.bracketAt i l [s.cfg.opcRdsr, s.cfg.dummy] ++
    if readsSecondary s.cfg p then s.bracketAt (i + 2) l [opByte s.cfg p .rdsr2, s.cfg.dummy] else []

/-- The flags of that status read (R225, R226). -/
def State.statusFlags (s : State) (i : Nat) (p : Profile) : StatusFlags :=
  decodeStatus p.layout (s.answer (i + 1)) (if readsSecondary s.cfg p then s.answer (i + 3) else 0x00)

/-- The events of the first `n` status reads of a poll that begins `i` exchanges from now: a delay stands before
every status read but the first, when `T_POLL > 0` (R161). -/
def State.pollEvents (s : State) (i l : Nat) (p : Profile) : Nat → List Event
  | 0 => []
  | n + 1 =>
    s.pollEvents i l p n ++ (if 0 < n ∧ 0 < s.cfg.tPoll then [.delay s.cfg.tPoll] else []) ++
      s.statusEvents (i + n * statusLen s.cfg p) l p

/-- The flags of status read number `n` of that poll, the first being number 0. -/
def State.pollFlags (s : State) (i : Nat) (p : Profile) (n : Nat) : StatusFlags :=
  s.statusFlags (i + n * statusLen s.cfg p) p

/-- What a mutating operation `i` on handle `k` does once its gates have passed, for every answer of the chip (R157,
R161, R162): the write-enable bracket, at once the bracket that sends `cmd`, then the poll of at most `b` status
reads. `m` is the mode the operation enters. If status read `n` is the first that decodes busy = 0, the operation ends
there with Ok in Standby; if all `b` decode busy = 1, it ends with BusyTimeout in mode `m`. The snapshot is that of
the last status read, or the old one if there was none. Nothing else of the state changes. -/
def MutationOutcome (i : Instr) (k : BitVec 4) (m : Mode) (cmd : List Byte) (b : Word) (s : State) : Prop :=
  let h := s.handle k
  let base := 1 + cmd.length
  let len := statusLen s.cfg h.profile
  let evs := s.bracketAt 0 h.selectLine [opByte s.cfg h.profile .wren] ++ s.bracketAt 1 h.selectLine cmd
  (∀ n < b.toNat, (∀ j < n, (s.pollFlags base h.profile j).busy = true) →
    (s.pollFlags base h.profile n).busy = false →
    exec i s = .next (respond .ok (.snapshot ⟨true, s.pollFlags base h.profile n⟩)
      ((s.advance (base + (n + 1) * len) (evs ++ s.pollEvents base h.selectLine h.profile (n + 1))).setHandle k
        { h with mode := .standby, snap := ⟨true, s.pollFlags base h.profile n⟩ }))) ∧
  ((∀ j < b.toNat, (s.pollFlags base h.profile j).busy = true) →
    let snap := if b.toNat = 0 then h.snap else ⟨true, s.pollFlags base h.profile (b.toNat - 1)⟩
    exec i s = .next (respond .busyTimeout (.snapshot snap)
      ((s.advance (base + b.toNat * len) (evs ++ s.pollEvents base h.selectLine h.profile b.toNat)).setHandle k
        { h with mode := m, snap := snap })))

/-! The hardware reset (R205). -/

/-- The handles a hardware reset re-enables: bound, with width 4. -/
def needs4b (h : Handle) : Bool := h.bound && decide (h.profile.addrWidth = .four)

/-- The enable-4-byte-mode brackets of a list of handles, in its order, the first beginning `i` exchanges from now. -/
def State.reenableEvents (s : State) : Nat → List Handle → List Event
  | _, [] => []
  | i, h :: rest =>
    if needs4b h then
      s.bracketAt i h.selectLine [opByte s.cfg h.profile .en4b] ++ s.reenableEvents (i + 1) rest
    else s.reenableEvents i rest

/-! Whole traces. -/

/-- An event that is no part of a bracket: a delay or a line event. -/
def isPlain : Event → Bool
  | .delay _ => true
  | .resetLine _ => true
  | .wpDeasserted => true
  | .select _ => false
  | .xfer _ _ => false
  | .deselect _ => false

/-- An event list made of delays, line events and brackets of the twelve formats, each on an existing line, for a
profile of the resolver and an opcode that the multiplexer defines (R101, R106, R110). -/
inductive BlockTrace (c : Config) : List Event → Prop where
  | nil : BlockTrace c []
  | plain (e : Event) (rest : List Event) : isPlain e = true → BlockTrace c rest → BlockTrace c (e :: rest)
  | bracket (l n : Nat) (p : Profile) (cmd : BusCmd) (ins : List Byte) (rest : List Event) :
      l < c.numSelect → ProfileLegal c p → (opc c p cmd.slot).isSome = true →
      ins.length = (encodeBus c n p cmd).length → BlockTrace c rest →
      BlockTrace c (bracketEvents l (encodeBus c n p cmd) ins ++ rest)

/-- How many brackets an event list opens. -/
def brackets (evs : List Event) : Nat := evs.countP fun e => match e with | .select _ => true | _ => false

/-- How many delays an event list holds. -/
def delays (evs : List Event) : Nat := evs.countP fun e => match e with | .delay _ => true | _ => false

/-! What responses an operation can give. -/

/-- The response has a code the operation can return (R248) and the values that code carries (R94). -/
def responseFits (i : Instr) (r : Response) : Bool :=
  match i, r.code, r.values with
  | _, .invalidRequest, .nothing => true
  | .identify _, .ok, .profile _ => true
  | .identify _, .identificationUnresolved, .profile _ => true
  | .bindDevice _ _, .ok, .profile _ => true
  | .bindDevice _ _, .identificationUnresolved, .profile _ => true
  | .read _ _ n, .ok, .data d => decide (d.length = n.toNat)
  | .read _ _ _, .capabilityError, .nothing => true
  | .read _ _ _, .notReady, .nothing => true
  | .readVerify _ _ n _, .ok, .verified d _ _ => decide (d.length = n.toNat)
  | .readVerify _ _ _ _, .capabilityError, .nothing => true
  | .readVerify _ _ _ _, .notReady, .nothing => true
  | .program _ _ _ _, .ok, .snapshot _ => true
  | .program _ _ _ _, .busyTimeout, .snapshot _ => true
  | .program _ _ _ _, .capabilityError, .nothing => true
  | .program _ _ _ _, .notReady, .nothing => true
  | .program _ _ _ _, .alignmentError, .nothing => true
  | .eraseChip _ _, .ok, .snapshot _ => true
  | .eraseChip _ _, .busyTimeout, .snapshot _ => true
  | .eraseChip _ _, .capabilityError, .nothing => true
  | .eraseChip _ _, .notReady, .nothing => true
  | .eraseBlock _ _ _, .ok, .snapshot _ => true
  | .eraseBlock _ _ _, .busyTimeout, .snapshot _ => true
  | .eraseBlock _ _ _, .capabilityError, .nothing => true
  | .eraseBlock _ _ _, .notReady, .nothing => true
  | .readStatus _, .ok, .snapshot _ => true
  | .softwareReset _, .ok, .nothing => true
  | .hardwareReset _, .ok, .nothing => true
  | _, _, _ => false

/-- An operation that needs the three gates: read, read_verify, program, erase_chip, erase_block (R153, R154). -/
def isArrayOp : Instr → Bool
  | .read _ _ _ => true
  | .readVerify _ _ _ _ => true
  | .program _ _ _ _ => true
  | .eraseChip _ _ => true
  | .eraseBlock _ _ _ => true
  | _ => false

/-- A bound on the brackets of one operation (R163). -/
def bracketBound (c : Config) : Instr → Nat
  | .identify _ => 2
  | .bindDevice _ _ => 3
  | .read _ _ _ => 1
  | .readVerify _ _ _ _ => 1
  | .program _ _ _ b => 2 + 2 * b.toNat
  | .eraseChip _ b => 2 + 2 * b.toNat
  | .eraseBlock _ _ b => 2 + 2 * b.toNat
  | .readStatus _ => 2
  | .softwareReset _ => 3
  | .hardwareReset _ => c.numHandles
  | .reservedAB _ _ => 0
  | .reservedCF _ _ => 0
  | _ => 1

/-- A bound on the delays of one operation (R163). -/
def delayBound : Instr → Nat
  | .program _ _ _ b => b.toNat
  | .eraseChip _ b => b.toNat
  | .eraseBlock _ _ b => b.toNat
  | .softwareReset _ => 1
  | .hardwareReset _ => 2
  | _ => 0

/-! Two runs that differ in something that must not matter. -/

/-- The values of a response without the snapshot they carry. -/
def forgetSnap : Values → Values
  | .snapshot _ => .snapshot Snapshot.empty
  | v => v

/-- A state without its snapshots, in the handles and in the responses given. -/
def State.forgetSnaps (s : State) : State :=
  { s with handles := s.handles.map fun h => { h with snap := Snapshot.empty },
           responses := s.responses.map fun r => { r with values := forgetSnap r.values } }

/-- A state without the part numbers its handles hold. -/
def State.forgetParts (s : State) : State :=
  { s with handles := s.handles.map fun h => { h with profile := { h.profile with partNumber := none } } }

/-- Applies a function to the state of an outcome. -/
def onNext (f : State → State) : Host.Outcome State Fault Refusal → Host.Outcome State Fault Refusal
  | .next s => .next (f s)
  | .fault r => .fault r
  | .refused r => .refused r

end Sys2Proof.Machine
end

