-- ==== Sys2Proof/Certificates/Slice0/Obligations.lean ====
section
/-! DEFINITION. The statements for the provers. Each docstring names the rule of the spec it formalises, or the log
entry where it rests on a choice of the model. Every statement is for every configuration that `State.cfg` may hold;
where the registry's constraints are needed, `State.Inv` carries them (R27, R101, U11). -/

open Sys2Proof Sys2Proof.Machine

/-! Reset and the invariant. -/

/-- R46, R280: with any well-formed configuration the state after the block's reset meets the invariant. The first
clause, that `State.reset` does, rests on the model's choice of the illustrative configuration X and of the numbers of
its durations (log 2): the spec gives a configuration no value. -/
def Obligations.ResetStateMeetsInvariant : Prop :=
  State.reset.Inv ∧ ∀ c : Config, c.wf = true → (State.resetOf c).Inv

/-- R280 with the table of R46, and R282: the reset leaves every handle unbound, no bracket open, every chip-select and
the write-protect deasserted, the reset line high, and emits one event; after it the block waits. The same from any
state in which the host pulls the reset input: the parameters survive. That the reset input is an item of `pending`,
taken between two operations, and that the rest of `pending` stays, is the model's choice (log 4, log 5). -/
def Obligations.BlockResetLeavesBlockIdle : Prop :=
  (∀ c : Config, (State.resetOf c).events = [.wpDeasserted] ∧
    step (State.resetOf c) = .next (State.resetOf c)) ∧
  ∀ (s : State) (rest : List HostInput), s.pending = .blockReset :: rest →
    ∃ t, step s = .next t ∧ t.cfg = s.cfg ∧ t.handles.length = s.cfg.numHandles ∧
      (∀ h ∈ t.handles, h.bound = false) ∧ t.busSel = none ∧ t.csLines = List.replicate s.cfg.numSelect false ∧
      t.resetHigh = true ∧ t.wpAsserted = false ∧ t.events = s.events ++ [.wpDeasserted] ∧ t.pending = rest

/-- Headline invariant: every step keeps the bank's size, the idle bus and lines (R41, R42), the mode between
operations (R31), the legality of every bound profile (R29), the meaning of `snap_valid` (R33), the uniqueness of
select lines (R131), and the bus discipline of everything emitted so far (R41, R295). -/
def Obligations.EveryStepKeepsInvariant : Prop :=
  ∀ s t : State, s.Inv → step s = .next t → t.Inv

/-- R8 and R42: no instruction writes a parameter or the write-protect line. The other clauses are about fields of the
model's own: what the host has yet to present is untouched (the queue of log 4), and the record of events and responses
only grows (the choice of log 12, nearest R72). -/
def Obligations.NoInstructionWritesParametersOrWriteProtect : Prop :=
  ∀ (i : Instr) (s t : State), exec i s = .next t →
    t.cfg = s.cfg ∧ t.wpAsserted = s.wpAsserted ∧ t.pending = s.pending ∧
      (∃ evs, t.events = s.events ++ evs) ∧ ∃ rs, t.responses = s.responses ++ rs

/-! The step and the encodings. -/

/-- The model's choice of a step (log 4, log 11): a step takes the host's next request from `pending` and runs the
instruction it decodes to, to its end (the spec's part is R72 and R92); with nothing pending the block waits (R32,
R280). Presenting a table word, a header byte with every operand field zero, makes the next step run its instruction. -/
def Obligations.StepRunsTheDecodedRequest : Prop :=
  (∀ (s : State) (q : Request) (rest : List HostInput), s.pending = .request q :: rest →
    step s = exec (decode q) { s with pending := rest }) ∧
  (∀ s : State, s.pending = [] → step s = .next s) ∧
  ∀ (s : State) (w : Nat), w < 256 →
    ∃ i, decodeTableWord 8 w = some i ∧ step (s.withFetchWord 8 w) = exec i s

/-- Decode and encode agree: every host request, with every operand at every value, reads back; and exactly the host
requests have an encoding. -/
def Obligations.DecodeReadsBackEncode : Prop :=
  (∀ (i : Instr) (q : Request), encode i = some q → decode q = i) ∧
  ∀ i : Instr, (encode i).isSome = i.isRequest

/-- R91, R92, R93: the decoder is total; the instruction is a host request whose index is `hdr[7:4]`, and the header
byte matches its row of the table, which is the only row it matches. -/
def Obligations.EveryHeaderMatchesItsOneRow : Prop :=
  ∀ q : Request, (decode q).isRequest = true ∧ (decode q).index = q.hdr.extractLsb 7 4 ∧
    ∀ i : Instr, i.isRequest = true →
      ((∃ mask m, i.headerRow = some (mask, m) ∧ q.hdr &&& mask = m) ↔ i.headerRow = (decode q).headerRow)

/-- R91: an operand the operation does not use is ignored, whatever its value. -/
def Obligations.UnusedOperandsAreIgnored : Prop :=
  ∀ q r : Request, q.hdr = r.hdr →
    (q.op = 0x8 → q.sel = r.sel) →
    (q.op = 0x1 ∨ q.op = 0x2 ∨ q.op = 0x4 ∨ q.op = 0x9 → q.addr = r.addr) →
    (q.op = 0x1 ∨ q.op = 0x9 → q.len = r.len) →
    (q.op = 0x2 ∨ q.op = 0x3 ∨ q.op = 0x4 → q.budget = r.budget) →
    (q.op = 0x9 → q.pattern = r.pattern) →
    (q.op = 0x2 → q.data = r.data) →
    decode q = decode r

/-- Words written out from the spec's tables (R92, R93, vectors H1 to H9, and R106 under registry X) read as the
instructions they stand for. A sanity statement. That a table word has zero operands, and that a
bracket's bytes are read back at all, is the model's choice (log 11). X is log 2. -/
def Obligations.SpecWordsDecodeAsWritten : Prop :=
  decodeTableWord 8 0x18 = some (.bindDevice 1 0) ∧ decodeTableWord 8 0x10 = some (.identify 1) ∧
  decodeTableWord 8 0x22 = some (.program 2 0 [] 0) ∧ decodeTableWord 8 0x39 = some (.readVerify 3 0 0 0) ∧
  decodeTableWord 8 0x05 = some (.readStatus 0) ∧ decodeTableWord 8 0x45 = some (.readStatus 4) ∧
  decodeTableWord 8 0xF7 = some (.hardwareReset 15) ∧
  decodeTableWord 8 0x1A = some (.reservedAB 1 0) ∧ decodeTableWord 8 0x3F = some (.reservedCF 3 3) ∧
  decodeBus Config.illustrative (resolve Config.illustrative 0x20 0xBA 0x19).1 [0x12, 0x00, 0x01, 0x00, 0x00, 0xDE, 0xAD] =
    some (.pp 0x00010000 [0xDE, 0xAD]) ∧
  decodeBus Config.illustrative (resolve Config.illustrative 0xC2 0x17 0x18).1 [0x03, 0x01, 0x23, 0x45, 0x00, 0x00] =
    some (.read 0x012345 2)

/-- The bus side of decode and encode: where the opcodes defined for a profile are pairwise different, the bytes of
each of the twelve formats (R106) read back as the format with its operands, for every address that fits the width. That
bytes are read back at all is the model's choice (log 11). -/
def Obligations.BusBytesReadBack : Prop :=
  ∀ (c : Config) (n : Nat) (p : Profile) (cmd : BusCmd), opcodesDistinct c p = true →
    (opc c p cmd.slot).isSome = true → (∀ a, cmd.addr = some a → addrFits p.addrWidth a = true) →
    decodeBus c p (encodeBus c n p cmd) = some cmd

/-- The numeric codes of the enumerations: modes 0 to 5 (R30), vendors 0 to 3 (R25), result codes 0 to 6 (R240), each
the rule's own number; modes 6 and 7 and code 7 are never produced. -/
def Obligations.EnumerationCodesAreTheRules : Prop :=
  [Mode.standby, .reading, .writing, .erasing, .softwareReset, .hardwareReset].map modeCode = [0, 1, 2, 3, 4, 5] ∧
  [Vendor.macronix, .infineon, .micron, .unknown].map vendorCode = [0, 1, 2, 3] ∧
  [Code.ok, .capabilityError, .alignmentError, .busyTimeout, .identificationUnresolved, .notReady,
    .invalidRequest].map codeNumber = [0, 1, 2, 3, 4, 5, 6] ∧
  (∀ m, modeCode m ≠ 6 ∧ modeCode m ≠ 7) ∧ ∀ c, codeNumber c ≠ 7

/-! Operands, the multiplexer and the resolver. -/

/-- R105 and R62: for an address that fits the width, the bytes are the slices of the address, most significant first;
their number is the width, and read as a number in that order they are the address. -/
def Obligations.AddressBytesMostSignificantFirst : Prop :=
  (∀ (n : Nat) (a : Word), addrBytes n .four a =
    [a.extractLsb 31 24, a.extractLsb 23 16, a.extractLsb 15 8, a.extractLsb 7 0]) ∧
  (∀ (n : Nat) (a : Word), a.toNat < 2 ^ 24 → addrBytes n .three a =
    [a.extractLsb 23 16, a.extractLsb 15 8, a.extractLsb 7 0]) ∧
  ∀ (n : Nat) (w : AddrWidth) (a : Word), a.toNat < 2 ^ (8 * widthBytes w) →
    (addrBytes n w a).length = widthBytes w ∧
      (addrBytes n w a).foldl (fun acc b => 256 * acc + b.toNat) 0 = a.toNat

/-- R24, R102: the multiplexer's opcodes are fixed by the vendor and the address width of the profile; no other field
of the profile, and nothing else, decides one. -/
def Obligations.OpcodesFixedByVendorAndWidth : Prop :=
  ∀ (c : Config) (p q : Profile) (slot : Slot), p.vendor = q.vendor → p.addrWidth = q.addrWidth →
    opc c p slot = opc c q slot

/-- R102: the multiplexer, slot by slot. -/
def Obligations.MultiplexerFollowsItsTable : Prop :=
  ∀ (c : Config) (p : Profile) (slot : Slot),
    opc c p slot =
      if slot = .rdid then some c.opcRdid
      else if slot = .rdsr then some c.opcRdsr
      else if slot = .eid then some c.opcEid
      else if p.vendor = .unknown ∧ slot = .rsten then some c.genRsten
      else if p.vendor = .unknown ∧ slot = .rst then some c.genRst
      else regOpc c p.vendor slot p.addrWidth

/-- R101: with a registry that meets the constraints, the opcodes the operations ask for are defined: on an operable
profile WREN, READ, PP, CE, BE, and RDSR2 if the layout uses register SEC; on every profile of the resolver the reset
pair, and EN4B at width 4. The Unknown profile has no opcode of its own. -/
def Obligations.WellFormedRegistryDefinesEveryOpcode : Prop :=
  ∀ (c : Config) (p : Profile), c.wf = true → ProfileLegal c p →
    (operable p = true → ∀ slot ∈ [Slot.wren, .read, .pp, .ce, .be], (opc c p slot).isSome = true) ∧
    (operable p = true → p.layout.usesSec = true → (opc c p .rdsr2).isSome = true) ∧
    (opc c p .rsten).isSome = true ∧ (opc c p .rst).isSome = true ∧
    (p.addrWidth = .four → (opc c p .en4b).isSome = true) ∧
    (p.vendor = .unknown → ∀ (slot : Slot) (w : AddrWidth), regOpc c p.vendor slot w = none)

/-- R27 on the profiles of the resolver: an operable profile has a page, sector and block size and a density greater
than zero, its density is within reach of its width, and beyond 2^24 bytes its width is 4; a profile that is not
operable has the zero geometry, width 3 and the generic layout (R137, R138). -/
def Obligations.ProfileGeometryIsSound : Prop :=
  ∀ (c : Config) (p : Profile), c.wf = true → ProfileLegal c p →
    (operable p = true → 0 < p.pageSize.toNat ∧ 0 < p.sectorSize.toNat ∧ 0 < p.blockSize.toNat ∧
      0 < p.density.toNat ∧ p.density.toNat ≤ 2 ^ (8 * widthBytes p.addrWidth) ∧
      (2 ^ 24 < p.density.toNat → p.addrWidth = .four)) ∧
    (operable p = false → p.addrWidth = .three ∧ p.pageSize = 0 ∧ p.sectorSize = 0 ∧ p.blockSize = 0 ∧
      p.density = 0 ∧ p.layout = genericLayout c ∧ p.densOk = false)

/-- R137: a manufacturer ID the registry does not list yields the Unknown profile, whole, and the code
IdentificationUnresolved (R139), whatever the other bytes are. -/
def Obligations.UnlistedManufacturerYieldsUnknownProfile : Prop :=
  ∀ (c : Config) (m t d : Byte), vendorOf c m = .unknown →
    ∃ p, resolve c m t d = (p, false) ∧ p.vendor = .unknown ∧ p.partNumber = none ∧ p.densOk = false ∧
      p.addrWidth = .three ∧ p.pageSize = 0 ∧ p.sectorSize = 0 ∧ p.blockSize = 0 ∧ p.density = 0 ∧
      p.layout = ⟨c.genBusyBit, c.genWelBit, none, none⟩ ∧ operable p = false

/-- R135, R136, R139, R141: for a listed manufacturer the two lookups are independent. The part lookup decides the part
number alone; the density lookup decides width, geometry, density and layout; the code is Ok exactly when both
succeed. -/
def Obligations.LookupsAreIndependent : Prop :=
  ∀ (c : Config) (m t d : Byte), vendorOf c m ≠ .unknown →
    (resolve c m t d).1.vendor = vendorOf c m ∧
    (resolve c m t d).1.partNumber = partOf c m t ∧
    (∀ e, densOf c m d = some e → (resolve c m t d).1.densOk = true ∧
      (resolve c m t d).1.addrWidth = e.addrWidth ∧ (resolve c m t d).1.pageSize = e.pageSize ∧
      (resolve c m t d).1.sectorSize = e.sectorSize ∧ (resolve c m t d).1.blockSize = e.blockSize ∧
      (resolve c m t d).1.density = e.density ∧ (resolve c m t d).1.layout = e.layout) ∧
    (densOf c m d = none → (resolve c m t d).1.densOk = false ∧ (resolve c m t d).1.addrWidth = .three ∧
      (resolve c m t d).1.pageSize = 0 ∧ (resolve c m t d).1.sectorSize = 0 ∧ (resolve c m t d).1.blockSize = 0 ∧
      (resolve c m t d).1.density = 0 ∧ (resolve c m t d).1.layout = ⟨c.genBusyBit, c.genWelBit, none, none⟩) ∧
    ((resolve c m t d).2 = true ↔ partOf c m t ≠ none ∧ densOf c m d ≠ none)

/-- R225: the decoder takes each flag from the one bit the layout names, a flag without a position reads 0, and bits
that the layout does not name do not matter. -/
def Obligations.StatusDecoderReadsNamedBits : Prop :=
  (∀ (l : StatusLayout) (s1 s2 : Byte),
    (decodeStatus l s1 s2).busy = s1.getLsbD l.busyBit.val ∧ (decodeStatus l s1 s2).wel = s1.getLsbD l.welBit.val ∧
    (l.perr = none → (decodeStatus l s1 s2).perr = false) ∧ (l.eerr = none → (decodeStatus l s1 s2).eerr = false) ∧
    (∀ b, l.perr = some ⟨.pri, b⟩ → (decodeStatus l s1 s2).perr = s1.getLsbD b.val) ∧
    (∀ b, l.perr = some ⟨.sec, b⟩ → (decodeStatus l s1 s2).perr = s2.getLsbD b.val) ∧
    (∀ b, l.eerr = some ⟨.pri, b⟩ → (decodeStatus l s1 s2).eerr = s1.getLsbD b.val) ∧
    (∀ b, l.eerr = some ⟨.sec, b⟩ → (decodeStatus l s1 s2).eerr = s2.getLsbD b.val)) ∧
  ∀ (l : StatusLayout) (s1 s2 r1 r2 : Byte),
    s1.getLsbD l.busyBit.val = r1.getLsbD l.busyBit.val → s1.getLsbD l.welBit.val = r1.getLsbD l.welBit.val →
    (∀ b, l.perr = some ⟨.pri, b⟩ ∨ l.eerr = some ⟨.pri, b⟩ → s1.getLsbD b.val = r1.getLsbD b.val) →
    (∀ b, l.perr = some ⟨.sec, b⟩ ∨ l.eerr = some ⟨.sec, b⟩ → s2.getLsbD b.val = r2.getLsbD b.val) →
    decodeStatus l s1 s2 = decodeStatus l r1 r2

/-! Admission. -/

/-- R93: a request whose `op` is 0xA to 0xF, or whose `idx` is 0 or greater than `NUM_HANDLES`, emits no event, writes
no state and answers InvalidRequest; so does each of the two reserved rows, on every index. -/
def Obligations.InvalidRequestsAnswerInvalidRequest : Prop :=
  (∀ (s : State) (q : Request),
    10 ≤ q.hdr.toNat % 16 ∨ q.hdr.toNat / 16 = 0 ∨ s.cfg.numHandles < q.hdr.toNat / 16 →
    exec (decode q) s = .next { s with responses := s.responses ++ [⟨.invalidRequest, .nothing⟩] }) ∧
  (∀ (s : State) (k : BitVec 4) (x : BitVec 1),
    exec (.reservedAB k x) s = .next { s with responses := s.responses ++ [⟨.invalidRequest, .nothing⟩] }) ∧
  ∀ (s : State) (k : BitVec 4) (x : BitVec 2),
    exec (.reservedCF k x) s = .next { s with responses := s.responses ++ [⟨.invalidRequest, .nothing⟩] }

/-- R152, R153, R154, R172, R250: read, read_verify, program, erase_chip and erase_block are refused in the fixed order
InvalidRequest, CapabilityError, NotReady, and program last with AlignmentError (data longer than a page, or an address
that is no multiple of the page size); a refused request emits no event and writes no state. -/
def Obligations.ArrayOperationsRefusedInOrder : Prop :=
  ∀ (i : Instr) (s : State), isArrayOp i = true →
    let refused (c : Code) := exec i s = .next { s with responses := s.responses ++ [⟨c, .nothing⟩] }
    let h := s.handle i.index
    let page := h.profile.pageSize.toNat
    (¬((1 ≤ i.index.toNat ∧ i.index.toNat ≤ s.cfg.numHandles) ∧ h.bound = true) → refused .invalidRequest) ∧
    (validHandle s i.index = true → ¬(h.profile.vendor ≠ .unknown ∧ h.profile.densOk = true) →
      refused .capabilityError) ∧
    (validHandle s i.index = true → operable h.profile = true → h.mode ≠ .standby → refused .notReady) ∧
    (validHandle s i.index = true → operable h.profile = true → h.mode = .standby →
      ∀ addr data budget, i = .program i.index addr data budget →
        page < data.length ∨ (0 < page ∧ addr.toNat % page ≠ 0) → refused .alignmentError)

/-- R252: a refusal (CapabilityError, AlignmentError, NotReady, InvalidRequest) is precise: the last response apart,
the state is what it was before the request. -/
def Obligations.RefusalsAreExact : Prop :=
  ∀ (i : Instr) (s t : State) (r : Response), i.isRequest = true → exec i s = .next t →
    t.responses = s.responses ++ [r] →
    r.code = .capabilityError ∨ r.code = .alignmentError ∨ r.code = .notReady ∨ r.code = .invalidRequest →
    r.values = .nothing ∧ t = { s with responses := s.responses ++ [r] }

/-- R240, R94, R248: every host request takes a next state with exactly one response more, with a code the operation
can return and the values that go with it. That this holds also of a request whose address does not fit the width, or
whose range passes the density, is the model's choice (log 6, log 7): the spec gives such a request no meaning (U3). So
is going on under a registry that breaks its constraints (U11), with a free opcode (log 8) or a free quotient or
remainder (log 9). -/
def Obligations.EveryRequestGetsOneFittingResponse : Prop :=
  ∀ (i : Instr) (s : State), i.isRequest = true →
    ∃ t r, exec i s = .next t ∧ t.responses = s.responses ++ [r] ∧ responseFits i r = true

/-! The operations. -/

/-- R133, R134: identify emits the B-RDID bracket and, for a Macronix manufacturer ID, the B-EID bracket, stores the
profile they resolve to, and returns it; every other field of the block is unchanged, the mode included. On a bad index
or an unbound handle it answers InvalidRequest and changes nothing else. -/
def Obligations.IdentifyStoresTheResolvedProfile : Prop :=
  ∀ (s : State) (k : BitVec 4), s.Inv →
    (validHandle s k = true →
      exec (.identify k) s =
        .next (respond (if s.idResult.2 then .ok else .identificationUnresolved) (.profile s.idResult.1)
          ((s.advance s.idCount (s.idEvents (s.handle k).selectLine)).setHandle k
            { s.handle k with profile := s.idResult.1 }))) ∧
    (validHandle s k = false →
      exec (.identify k) s = .next { s with responses := s.responses ++ [⟨.invalidRequest, .nothing⟩] })

/-- R131: bind_device is refused on a bad index, on a select line that does not exist, and on a line that another bound
handle has, with no event and no state written. Otherwise, on an index bound or not, it writes every field of the
handle, identifies the device (R134), and for a width-4 profile emits one B-EN4B bracket after the identification. -/
def Obligations.BindCreatesTheHandle : Prop :=
  ∀ (s : State) (k : BitVec 4) (sel : Byte), s.Inv →
    let refuse := ¬(1 ≤ k.toNat ∧ k.toNat ≤ s.cfg.numHandles) ∨ s.cfg.numSelect ≤ sel.toNat ∨
      ∃ j, j ≠ k ∧ validHandle s j = true ∧ (s.handle j).selectLine = sel.toNat
    let p := s.idResult.1
    let four := decide (p.addrWidth = .four)
    (refuse → exec (.bindDevice k sel) s =
      .next { s with responses := s.responses ++ [⟨.invalidRequest, .nothing⟩] }) ∧
    (¬refuse → exec (.bindDevice k sel) s =
      .next (respond (if s.idResult.2 then .ok else .identificationUnresolved) (.profile p)
        ((s.advance (s.idCount + if four then 1 else 0) (s.idEvents sel.toNat ++
            if four then s.bracketAt s.idCount sel.toNat [opByte s.cfg p .en4b] else [])).setHandle k
          { bound := true, selectLine := sel.toNat, profile := p, mode := .standby,
            snap := ⟨false, ⟨false, false, false, false⟩⟩, mismatch := 0 })))

/-- R66, R191, R192: an admitted read is one bracket (opcode, address, `len` dummies); it returns the last `len` bytes
that came back, verbatim, and leaves every field of every handle as it was. The model's choice, where U3 gives no
meaning: an address that does not fit the width is sent as free bytes (log 6), and a range past the density runs as any
other (log 7). -/
def Obligations.ReadReturnsTheBytesOfOneBracket : Prop :=
  ∀ (s : State) (k : BitVec 4) (addr len : Word), Admitted s k →
    let p := (s.handle k).profile
    let out := [opByte s.cfg p .read] ++ addrBytes s.xferCount p.addrWidth addr ++
      List.replicate len.toNat s.cfg.dummy
    exec (.read k addr len) s =
      .next (respond .ok (.data (s.answers (1 + widthBytes p.addrWidth) len.toNat))
        (s.advance (1 + widthBytes p.addrWidth + len.toNat) (s.bracketAt 0 (s.handle k).selectLine out)))

/-- R194, R195, R196, R34: an admitted read_verify makes the bracket of the read with the same operands and returns its
bytes; `mismatch`, in the handle and in the response, is the number of bytes different from the pattern; `bad_sectors`
is strictly increasing and holds exactly the sectors `(addr + i) / sector_size` of those bytes, all below 2^32 where
the range lies in the device. Nothing else of the block changes. The model's choice, where U3 gives no meaning: an
address that does not fit the width is sent as free bytes (log 6), and a range past the density runs as any other
(log 7, log 15). -/
def Obligations.ReadVerifyCountsMismatches : Prop :=
  ∀ (s : State) (k : BitVec 4) (addr len : Word) (pattern : Byte), Admitted s k →
    let p := (s.handle k).profile
    let out := [opByte s.cfg p .read] ++ addrBytes s.xferCount p.addrWidth addr ++
      List.replicate len.toNat s.cfg.dummy
    let data := s.answers (1 + widthBytes p.addrWidth) len.toNat
    ∃ (n : Word) (bad : List Nat),
      exec (.readVerify k addr len pattern) s =
        .next (respond .ok (.verified data n bad)
          ((s.advance (1 + widthBytes p.addrWidth + len.toNat) (s.bracketAt 0 (s.handle k).selectLine out)).setHandle k
            { s.handle k with mismatch := n })) ∧
      n.toNat = data.countP (fun b => decide (b ≠ pattern)) ∧
      bad.Pairwise (· < ·) ∧
      (∀ x, x ∈ bad ↔ ∃ i, i < len.toNat ∧ data.getD i 0 ≠ pattern ∧ x = (addr.toNat + i) / p.sectorSize.toNat) ∧
      (inRange p addr len.toNat = true → ∀ x ∈ bad, x < 2 ^ 32)

/-- R67, R157, R161, R162, R171: an admitted, page-aligned program, for every answer of the chip and every budget. The
model's choice, where U3 gives no meaning: an address that does not fit the width is sent as free bytes (log 6), and a
range past the density runs as any other (log 7). -/
def Obligations.ProgramIssuesItsCommandAndPolls : Prop :=
  ∀ (s : State) (k : BitVec 4) (addr : Word) (data : List Byte) (budget : Word), Admitted s k →
    data.length ≤ (s.handle k).profile.pageSize.toNat → addr.toNat % (s.handle k).profile.pageSize.toNat = 0 →
    MutationOutcome (.program k addr data budget) k .writing
      ([opByte s.cfg (s.handle k).profile .pp] ++ addrBytes (s.xferCount + 1) (s.handle k).profile.addrWidth addr ++
        data) budget s

/-- R157, R161, R162, R181: an admitted erase_chip, for every answer of the chip and every budget. -/
def Obligations.EraseChipIssuesItsCommandAndPolls : Prop :=
  ∀ (s : State) (k : BitVec 4) (budget : Word), Admitted s k →
    MutationOutcome (.eraseChip k budget) k .erasing [opByte s.cfg (s.handle k).profile .ce] budget s

/-- R157, R161, R162, R183, R184: an admitted erase_block, for every answer of the chip, every budget and every address,
block-aligned or not. The model's choice, where U3 gives no meaning: an address that does not fit the width is sent as
free bytes (log 6), and an address past the density runs as any other (log 7). -/
def Obligations.EraseBlockIssuesItsCommandAndPolls : Prop :=
  ∀ (s : State) (k : BitVec 4) (addr budget : Word), Admitted s k →
    MutationOutcome (.eraseBlock k addr budget) k .erasing
      ([opByte s.cfg (s.handle k).profile .be] ++ addrBytes (s.xferCount + 1) (s.handle k).profile.addrWidth addr)
      budget s

/-- R221, R226, R227, R229: read_status on a bound handle, in every mode and on every profile: one or two brackets, the
snapshot written and returned with Ok, Standby exactly when busy = 0 is seen in Writing or Erasing. On a bad index or an
unbound handle it answers InvalidRequest and changes nothing else. -/
def Obligations.ReadStatusWritesSnapshotAndMode : Prop :=
  ∀ (s : State) (k : BitVec 4), s.Inv →
    let h := s.handle k
    let f := s.statusFlags 0 h.profile
    (validHandle s k = true →
      exec (.readStatus k) s =
        .next (respond .ok (.snapshot ⟨true, f⟩)
          ((s.advance (statusLen s.cfg h.profile) (s.statusEvents 0 h.selectLine h.profile)).setHandle k
            { h with snap := ⟨true, f⟩,
                     mode := if f.busy = false ∧ (h.mode = .writing ∨ h.mode = .erasing) then .standby
                       else h.mode }))) ∧
    (validHandle s k = false →
      exec (.readStatus k) s = .next { s with responses := s.responses ++ [⟨.invalidRequest, .nothing⟩] })

/-- R228, R138: on a profile that is not operable the status read makes one bracket, takes busy and write-enable latch
from the generic bits, and reports both error flags 0. -/
def Obligations.UnresolvedStatusReadDegrades : Prop :=
  ∀ (s : State) (k : BitVec 4), s.Inv → validHandle s k = true → operable (s.handle k).profile = false →
    ∃ t, exec (.readStatus k) s = .next t ∧
      t.events = s.events ++ s.bracketAt 0 (s.handle k).selectLine [s.cfg.opcRdsr, s.cfg.dummy] ∧
      (t.handle k).snap = ⟨true, ⟨(s.answer 1).getLsbD s.cfg.genBusyBit.val,
        (s.answer 1).getLsbD s.cfg.genWelBit.val, false, false⟩⟩

/-- R68: two status reads in a row with the same returned bytes leave the same handles as one. -/
def Obligations.RepeatedStatusReadIsIdempotent : Prop :=
  ∀ (s t u : State) (k : BitVec 4), s.Inv → exec (.readStatus k) s = .next t → exec (.readStatus k) t = .next u →
    (∀ i < statusLen s.cfg (s.handle k).profile,
      s.answer (statusLen s.cfg (s.handle k).profile + i) = s.answer i) →
    u.handles = t.handles

/-- R201, R202, R208, R210: software_reset on a bound handle, in every mode and on every profile: reset-enable, the
settle delay, reset, and for a width-4 profile exactly one enable-4-byte-mode bracket; the handle ends in Standby and
nothing else of the block changes. On a bad index or an unbound handle it answers InvalidRequest and changes nothing
else. -/
def Obligations.SoftwareResetSequence : Prop :=
  ∀ (s : State) (k : BitVec 4), s.Inv →
    let h := s.handle k
    let four := decide (h.profile.addrWidth = .four)
    (validHandle s k = true →
      exec (.softwareReset k) s =
        .next (respond .ok .nothing
          ((s.advance (2 + if four then 1 else 0)
            (s.bracketAt 0 h.selectLine [opByte s.cfg h.profile .rsten] ++ [.delay s.cfg.tSrstSettle] ++
              s.bracketAt 1 h.selectLine [opByte s.cfg h.profile .rst] ++
              if four then s.bracketAt 2 h.selectLine [opByte s.cfg h.profile .en4b] else [])).setHandle k
            { h with mode := .standby }))) ∧
    (validHandle s k = false →
      exec (.softwareReset k) s = .next { s with responses := s.responses ++ [⟨.invalidRequest, .nothing⟩] })

/-- R205, R206, R208, R210: hardware_reset on a bound handle, in every mode and on every profile: the pulse with its
hold and settle delays, one enable-4-byte-mode bracket for every bound width-4 handle in increasing index order, every
bound handle to Standby; nothing else of the block changes. On a bad index or an unbound handle it answers
InvalidRequest and changes nothing else. -/
def Obligations.HardwareResetSequence : Prop :=
  ∀ (s : State) (k : BitVec 4), s.Inv →
    (validHandle s k = true →
      exec (.hardwareReset k) s =
        .next (respond .ok .nothing
          { s.advance (s.handles.countP fun h => h.bound && decide (h.profile.addrWidth = .four))
              ([.resetLine false, .delay s.cfg.tHrstHold, .resetLine true, .delay s.cfg.tHrstSettle] ++
                s.reenableEvents 0 s.handles) with
            handles := s.handles.map fun h => if h.bound then { h with mode := .standby } else h })) ∧
    (validHandle s k = false →
      exec (.hardwareReset k) s = .next { s with responses := s.responses ++ [⟨.invalidRequest, .nothing⟩] })

/-- R106: each of the twelve bus formats, for a bound handle, is one bracket on its select line that sends the bytes
the table gives for its profile; nothing else changes. The model's choices: that a format is an instruction of its own
(log 10); that an address which does not fit the width is sent as free bytes (log 6), and one past the density as any
other (log 7); that a slot the registry leaves undefined, as WREN on an Unknown profile, sends a free opcode (log 8). -/
def Obligations.BusFormatsSendTheirBytes : Prop :=
  ∀ (s : State) (k : BitVec 4), s.Inv → validHandle s k = true →
    let p := (s.handle k).profile
    let c := s.cfg
    let sends (i : Instr) (out : List Byte) :=
      exec i s = .next (s.advance out.length (s.bracketAt 0 (s.handle k).selectLine out))
    sends (.bRdid k) [c.opcRdid, c.dummy, c.dummy, c.dummy] ∧
    sends (.bEid k) ([c.opcEid] ++ List.replicate c.eidDummy c.dummy ++ [c.dummy]) ∧
    sends (.bRdsr k) [c.opcRdsr, c.dummy] ∧
    sends (.bRdsr2 k) [opByte c p .rdsr2, c.dummy] ∧
    sends (.bWren k) [opByte c p .wren] ∧
    (∀ addr data, sends (.bPp k addr data)
      ([opByte c p .pp] ++ addrBytes s.xferCount p.addrWidth addr ++ data)) ∧
    sends (.bCe k) [opByte c p .ce] ∧
    (∀ addr, sends (.bBe k addr) ([opByte c p .be] ++ addrBytes s.xferCount p.addrWidth addr)) ∧
    (∀ addr len, sends (.bRead k addr len)
      ([opByte c p .read] ++ addrBytes s.xferCount p.addrWidth addr ++ List.replicate len.toNat c.dummy)) ∧
    sends (.bRsten k) [opByte c p .rsten] ∧
    sends (.bRst k) [opByte c p .rst] ∧
    sends (.bEn4b k) [opByte c p .en4b]

/-- The model's choice (log 10): a bus format for an index that names no bound handle stops with the fault of that
name. -/
def Obligations.BusFormatOfUnboundHandleFaults : Prop :=
  ∀ (s : State) (k : BitVec 4) (cmd : BusCmd), validHandle s k = false →
    exec (cmd.toInstr k) s = .fault .unboundBusFormat

/-! Frames and whole-machine rules. -/

/-- R22, the "written by" column, for every request and every handle, in every state: `bound` and `select_line` by
bind_device alone; `profile` by bind_device and identify; the snapshot by read_status, the mutating operations and
bind_device; `mismatch` by read_verify and bind_device; `mode` by the operations on the handle other than identify,
and by hardware_reset. -/
def Obligations.HandleFieldsHaveTheirWriters : Prop :=
  ∀ (i : Instr) (s t : State) (j : BitVec 4), exec i s = .next t →
    let binds := ∃ sel, i = .bindDevice j sel
    let mutates := (∃ a d b, i = .program j a d b) ∨ (∃ b, i = .eraseChip j b) ∨ ∃ a b, i = .eraseBlock j a b
    ((t.handle j).bound ≠ (s.handle j).bound → binds) ∧
    ((t.handle j).selectLine ≠ (s.handle j).selectLine → binds) ∧
    ((t.handle j).profile ≠ (s.handle j).profile → binds ∨ i = .identify j) ∧
    ((t.handle j).snap ≠ (s.handle j).snap → binds ∨ mutates ∨ i = .readStatus j) ∧
    ((t.handle j).mismatch ≠ (s.handle j).mismatch → binds ∨ ∃ a n p, i = .readVerify j a n p) ∧
    ((t.handle j).mode ≠ (s.handle j).mode →
      binds ∨ mutates ∨ i = .readStatus j ∨ i = .softwareReset j ∨ ∃ k, i = .hardwareReset k)

/-- R75: an operation on one handle writes no field of another, but that hardware_reset writes the mode of the other
bound handles. -/
def Obligations.OtherHandlesAreUntouched : Prop :=
  ∀ (i : Instr) (s t : State) (j : BitVec 4), exec i s = .next t → j ≠ i.index →
    ((∀ k, i ≠ .hardwareReset k) → t.handle j = s.handle j) ∧
    t.handle j = { s.handle j with mode := (t.handle j).mode }

/-- R150: the transitions of a bound handle's mode between operations, and no others. Standby is left for Writing by
program alone and for Erasing by an erase alone; Writing and Erasing are left for Standby by a status read that
decodes busy = 0, by a reset, or by a new creation of the handle. -/
def Obligations.ModeTransitionsAreTheRules : Prop :=
  ∀ (i : Instr) (s t : State) (j : BitVec 4), s.Inv → exec i s = .next t → validHandle s j = true →
    (t.handle j).mode ≠ (s.handle j).mode →
    ((s.handle j).mode = .standby ∧ (t.handle j).mode = .writing ∧ ∃ a d b, i = .program j a d b) ∨
    ((s.handle j).mode = .standby ∧ (t.handle j).mode = .erasing ∧
      ((∃ b, i = .eraseChip j b) ∨ ∃ a b, i = .eraseBlock j a b)) ∨
    (((s.handle j).mode = .writing ∨ (s.handle j).mode = .erasing) ∧ (t.handle j).mode = .standby ∧
      ((i = .readStatus j ∧ (t.handle j).snap.valid = true ∧ (t.handle j).snap.flags.busy = false) ∨
        i = .softwareReset j ∨ (∃ k, i = .hardwareReset k) ∨ ∃ sel, i = .bindDevice j sel))

/-- R106, R101, R110: whatever a step emits is made of delays, line events and brackets of the twelve formats, each on
an existing line, with the bytes of a profile of the resolver and an opcode that the multiplexer defines. An address that
does not fit the width is sent as free bytes, the model's choice (log 6). -/
def Obligations.EveryBracketIsOneOfTheFormats : Prop :=
  ∀ s t : State, s.Inv → step s = .next t → ∃ evs, t.events = s.events ++ evs ∧ BlockTrace s.cfg evs

/-- R163: the event list of an operation is bounded by its operands, in brackets and in delays. -/
def Obligations.OperationsAreBounded : Prop :=
  ∀ (i : Instr) (s t : State), s.handles.length = s.cfg.numHandles → exec i s = .next t →
    ∃ evs, t.events = s.events ++ evs ∧ brackets evs ≤ bracketBound s.cfg i ∧ delays evs ≤ delayBound i

/-- R33: no operation's control flow reads a snapshot. Two states that differ in nothing but stored and returned
snapshots stay so under every instruction: the same events, modes, profiles, codes and values otherwise. -/
def Obligations.SnapshotsNeverDecide : Prop :=
  ∀ (i : Instr) (s r : State), s.forgetSnaps = r.forgetSnaps →
    onNext State.forgetSnaps (exec i s) = onNext State.forgetSnaps (exec i r)

/-- R26: the part number a handle holds decides nothing. Two states that differ in nothing else stay so under every
instruction, with the same events and the same responses. -/
def Obligations.PartNumbersNeverDecide : Prop :=
  ∀ (i : Instr) (s r : State), s.forgetParts = r.forgetParts →
    onNext State.forgetParts (exec i s) = onNext State.forgetParts (exec i r)
end

