-- ==== Sys2Proof/Laws/State.lean ====
section
/-! SUPPORT. The small lemmas of State: one per field per update, the handle bank read after a write, and the algebra of
`advance`. -/

namespace Sys2Proof.Machine

open Sys2Proof

variable (s : State) (k : BitVec 4) (h : Handle) (n : Nat) (e : List Event)

/-- The index names a slot of the bank. -/
def State.HasSlot (s : State) (k : BitVec 4) : Prop := k ≠ 0 ∧ k.toNat - 1 < s.handles.length

/-! `setHandle`. -/

@[simp] theorem setHandle_cfg : (s.setHandle k h).cfg = s.cfg := by unfold State.setHandle; split <;> rfl
@[simp] theorem setHandle_busSel : (s.setHandle k h).busSel = s.busSel := by unfold State.setHandle; split <;> rfl
@[simp] theorem setHandle_csLines : (s.setHandle k h).csLines = s.csLines := by unfold State.setHandle; split <;> rfl
@[simp] theorem setHandle_resetHigh : (s.setHandle k h).resetHigh = s.resetHigh := by
  unfold State.setHandle; split <;> rfl
@[simp] theorem setHandle_wpAsserted : (s.setHandle k h).wpAsserted = s.wpAsserted := by
  unfold State.setHandle; split <;> rfl
@[simp] theorem setHandle_pending : (s.setHandle k h).pending = s.pending := by unfold State.setHandle; split <;> rfl
@[simp] theorem setHandle_incoming : (s.setHandle k h).incoming = s.incoming := by
  unfold State.setHandle; split <;> rfl
@[simp] theorem setHandle_xferCount : (s.setHandle k h).xferCount = s.xferCount := by
  unfold State.setHandle; split <;> rfl
@[simp] theorem setHandle_events : (s.setHandle k h).events = s.events := by unfold State.setHandle; split <;> rfl
@[simp] theorem setHandle_responses : (s.setHandle k h).responses = s.responses := by
  unfold State.setHandle; split <;> rfl

theorem setHandle_handles (hk : k ≠ 0) : (s.setHandle k h).handles = s.handles.set (k.toNat - 1) h := by
  unfold State.setHandle; rw [if_neg hk]

@[simp] theorem setHandle_length : (s.setHandle k h).handles.length = s.handles.length := by
  unfold State.setHandle; split <;> simp

@[simp] theorem setHandle_setHandle (h' : Handle) : (s.setHandle k h).setHandle k h' = s.setHandle k h' := by
  unfold State.setHandle; split <;> simp

theorem handle_eq_getElem (hs : s.HasSlot k) : s.handle k = s.handles[k.toNat - 1]'hs.2 := by
  unfold State.handle; rw [if_neg hs.1]; simp [List.getD_eq_getElem?_getD, hs.2]

theorem handle_mem (hs : s.HasSlot k) : s.handle k ∈ s.handles := by
  rw [handle_eq_getElem s k hs]; exact List.getElem_mem _

theorem setHandle_handle_self : s.setHandle k (s.handle k) = s := by
  unfold State.setHandle State.handle
  split
  · rfl
  · by_cases hl : k.toNat - 1 < s.handles.length
    · simp [List.getD_eq_getElem?_getD, hl]
    · rw [List.set_eq_of_length_le (by omega)]

@[simp] theorem setHandle_hasSlot : (s.setHandle k h).HasSlot k ↔ s.HasSlot k := by
  simp [State.HasSlot]

/-- Reading the slot just written. -/
theorem handle_setHandle_self (hs : s.HasSlot k) : (s.setHandle k h).handle k = h := by
  unfold State.handle
  rw [if_neg hs.1, setHandle_handles s k h hs.1]
  simp [List.getD_eq_getElem?_getD, hs.2]

/-- Reading another slot. -/
theorem handle_setHandle_ne {j : BitVec 4} (hj : j ≠ k) : (s.setHandle k h).handle j = s.handle j := by
  unfold State.handle
  by_cases hj0 : j = 0
  · simp [hj0]
  by_cases hk0 : k = 0
  · simp [State.setHandle, hk0]
  rw [if_neg hj0, if_neg hj0, setHandle_handles s k h hk0]
  have hne : k.toNat - 1 ≠ j.toNat - 1 := by
    intro hh
    apply hj
    have h1 : k.toNat ≠ 0 := fun hz => hk0 (BitVec.eq_of_toNat_eq (by simpa using hz))
    have h2 : j.toNat ≠ 0 := fun hz => hj0 (BitVec.eq_of_toNat_eq (by simpa using hz))
    exact BitVec.eq_of_toNat_eq (by omega)
  simp [List.getD_eq_getElem?_getD, List.getElem?_set_ne hne]

/-! `advance` and the answers. -/

@[simp] theorem advance_cfg : (s.advance n e).cfg = s.cfg := rfl
@[simp] theorem advance_handles : (s.advance n e).handles = s.handles := rfl
@[simp] theorem advance_busSel : (s.advance n e).busSel = s.busSel := rfl
@[simp] theorem advance_csLines : (s.advance n e).csLines = s.csLines := rfl
@[simp] theorem advance_resetHigh : (s.advance n e).resetHigh = s.resetHigh := rfl
@[simp] theorem advance_wpAsserted : (s.advance n e).wpAsserted = s.wpAsserted := rfl
@[simp] theorem advance_pending : (s.advance n e).pending = s.pending := rfl
@[simp] theorem advance_incoming : (s.advance n e).incoming = s.incoming.drop n := rfl
@[simp] theorem advance_xferCount : (s.advance n e).xferCount = s.xferCount + n := rfl
@[simp] theorem advance_events : (s.advance n e).events = s.events ++ e := rfl
@[simp] theorem advance_responses : (s.advance n e).responses = s.responses := rfl
@[simp] theorem advance_handle : (s.advance n e).handle k = s.handle k := rfl
@[simp] theorem advance_hasSlot : (s.advance n e).HasSlot k ↔ s.HasSlot k := Iff.rfl

theorem advance_zero : s.advance 0 [] = s := by simp [State.advance]

@[simp] theorem advance_advance (m : Nat) (f : List Event) :
    (s.advance n e).advance m f = s.advance (n + m) (e ++ f) := by
  simp [State.advance, List.drop_drop, Nat.add_assoc]

theorem setHandle_advance : (s.setHandle k h).advance n e = (s.advance n e).setHandle k h := by
  unfold State.setHandle State.advance; split <;> rfl

@[simp] theorem answer_advance (i : Nat) : (s.advance n e).answer i = s.answer (n + i) := by
  simp [State.answer, List.getD_eq_getElem?_getD, List.getElem?_drop, Nat.add_assoc]

@[simp] theorem answer_setHandle (i : Nat) : (s.setHandle k h).answer i = s.answer i := by
  simp [State.answer]

@[simp] theorem answers_setHandle (i m : Nat) : (s.setHandle k h).answers i m = s.answers i m := by
  simp [State.answers]

@[simp] theorem answers_advance (i m : Nat) : (s.advance n e).answers i m = s.answers (n + i) m := by
  simp [State.answers, Nat.add_assoc]

@[simp] theorem answers_length (i m : Nat) : (s.answers i m).length = m := by simp [State.answers]

@[simp] theorem answers_getElem (i m j : Nat) (hj : j < (s.answers i m).length) : (s.answers i m)[j] = s.answer (i + j) := by
  simp [State.answers]

theorem answers_getD (i m j : Nat) (d : Byte) (hj : j < m) : (s.answers i m).getD j d = s.answer (i + j) := by
  simp [State.answers, List.getD_eq_getElem?_getD, hj]

theorem answers_drop (i a m : Nat) : (s.answers i (a + m)).drop a = s.answers (i + a) m := by
  apply List.ext_getElem
  · simp
  · intro j h1 h2
    simp [State.answers, Nat.add_assoc]

/-! `respond` and `raise`. -/

@[simp] theorem respond_cfg (c : Code) (v : Values) : (respond c v s).cfg = s.cfg := rfl
@[simp] theorem respond_handles (c : Code) (v : Values) : (respond c v s).handles = s.handles := rfl
@[simp] theorem respond_handle (c : Code) (v : Values) : (respond c v s).handle k = s.handle k := rfl
@[simp] theorem respond_busSel (c : Code) (v : Values) : (respond c v s).busSel = s.busSel := rfl
@[simp] theorem respond_csLines (c : Code) (v : Values) : (respond c v s).csLines = s.csLines := rfl
@[simp] theorem respond_resetHigh (c : Code) (v : Values) : (respond c v s).resetHigh = s.resetHigh := rfl
@[simp] theorem respond_wpAsserted (c : Code) (v : Values) : (respond c v s).wpAsserted = s.wpAsserted := rfl
@[simp] theorem respond_pending (c : Code) (v : Values) : (respond c v s).pending = s.pending := rfl
@[simp] theorem respond_incoming (c : Code) (v : Values) : (respond c v s).incoming = s.incoming := rfl
@[simp] theorem respond_xferCount (c : Code) (v : Values) : (respond c v s).xferCount = s.xferCount := rfl
@[simp] theorem respond_events (c : Code) (v : Values) : (respond c v s).events = s.events := rfl
@[simp] theorem respond_responses (c : Code) (v : Values) :
    (respond c v s).responses = s.responses ++ [⟨c, v⟩] := rfl

end Sys2Proof.Machine
end

