-- ==== Sys2Proof/Laws/Frame.lean ====
section
/-! SUPPORT. What the shared operations leave alone, in every state, idle bus or not: `Run k s t evs` says that `t` comes
from `s` by emitting `evs` and by writing handle `k` at most. One lemma per shared operation, and the fields of handle
`k` each of them writes. -/

namespace Sys2Proof.Machine

open Sys2Proof

/-- From `s` to `t` the block emitted `evs`, changed no handle but `k`, and gave no response. -/
structure Run (k : BitVec 4) (s t : State) (evs : List Event) : Prop where
  cfg : t.cfg = s.cfg
  length : t.handles.length = s.handles.length
  others : ∀ j, j ≠ k → t.handle j = s.handle j
  wp : t.wpAsserted = s.wpAsserted
  pending : t.pending = s.pending
  responses : t.responses = s.responses
  events : t.events = s.events ++ evs

theorem Run.refl (k : BitVec 4) (s : State) : Run k s s [] := ⟨rfl, rfl, fun _ _ => rfl, rfl, rfl, rfl, by simp⟩

theorem Run.trans {k : BitVec 4} {s t u : State} {e f : List Event} (h : Run k s t e) (h' : Run k t u f) :
    Run k s u (e ++ f) :=
  ⟨h'.cfg.trans h.cfg, h'.length.trans h.length, fun j hj => (h'.others j hj).trans (h.others j hj), h'.wp.trans h.wp,
    h'.pending.trans h.pending, h'.responses.trans h.responses, by rw [h'.events, h.events, List.append_assoc]⟩

theorem Run.hasSlot {k : BitVec 4} {s t : State} {e : List Event} (h : Run k s t e) (j : BitVec 4) :
    t.HasSlot j ↔ s.HasSlot j := by simp [State.HasSlot, h.length]

/-- An index without a slot reads as an unbound handle. -/
theorem handle_noSlot {s : State} {k : BitVec 4} (hs : ¬s.HasSlot k) : s.handle k = Handle.unbound s.cfg := by
  unfold State.handle
  by_cases hk : k = 0
  · simp [hk]
  · have : s.handles.length ≤ k.toNat - 1 := by
      rw [State.HasSlot] at hs; by_contra hc; exact hs ⟨hk, by omega⟩
    simp [List.getD_eq_getElem?_getD, List.getElem?_eq_none this]

/-- Writing a handle without a slot writes nothing that can be read. -/
theorem handle_setHandle_noSlot {s : State} {k : BitVec 4} (h : Handle) (hs : ¬s.HasSlot k) :
    (s.setHandle k h).handle k = s.handle k := by
  rw [handle_noSlot hs, handle_noSlot (by simpa using hs), setHandle_cfg]

theorem run_setHandle (s : State) (k : BitVec 4) (h : Handle) : Run k s (s.setHandle k h) [] :=
  ⟨by simp, by simp, fun _ hj => handle_setHandle_ne s k h hj, by simp, by simp, by simp, by simp⟩

/-! One bracket. -/

theorem xferAll_general (out : List Byte) (s : State) :
    xferAll out s = (s.answers 0 out.length, s.advance out.length (List.zipWith .xfer out (s.answers 0 out.length))) := by
  induction out generalizing s with
  | nil => simp [xferAll, State.answers, State.advance]
  | cons o out ih =>
    have ha : s.answers 0 (o :: out).length = s.answer 0 :: s.answers 1 out.length := by
      apply List.ext_getElem
      · simp
      · intro i h1 h2
        cases i with
        | zero => simp [State.answers]
        | succ i => simp [State.answers, Nat.add_comm]
    have hx : (xfer o s).2 = s.advance 1 [.xfer o (s.answer 0)] := by simp [xfer, State.advance]
    rw [xferAll, ih (xfer o s).2, hx, ha]
    simp [xfer, Nat.add_comm]

/-- A bracket in any state: the answers come back, the events are emitted, and the bus is left idle on that line. -/
theorem bracket_general (l : Nat) (out : List Byte) (s : State) :
    bracket l out s = (s.answers 0 out.length,
      { s.advance out.length (s.bracketAt 0 l out) with
          busSel := none, csLines := (s.csLines.set l true).set l false }) := by
  have ha : (select l s).answers 0 out.length = s.answers 0 out.length := rfl
  rw [bracket, xferAll_general, ha]
  refine Prod.ext rfl ?_
  simp [select, deselect, State.advance, State.bracketAt, bracketEvents]

/-- What a bracket of a format emits: its line, its profile and its format are those asked for. -/
theorem emit_general (l : Nat) (p : Profile) (cmd : BusCmd) (s : State) :
    emit l p cmd s = (s.answers 0 (encodeBus s.cfg s.xferCount p cmd).length,
      { s.advance (encodeBus s.cfg s.xferCount p cmd).length
          (s.bracketAt 0 l (encodeBus s.cfg s.xferCount p cmd)) with
          busSel := none, csLines := (s.csLines.set l true).set l false }) :=
  bracket_general _ _ _

section Emit

variable (l : Nat) (p : Profile) (cmd : BusCmd) (s : State) (k : BitVec 4)

@[simp] theorem emit_cfg : (emit l p cmd s).2.cfg = s.cfg := by rw [emit_general]; rfl
@[simp] theorem emit_handles : (emit l p cmd s).2.handles = s.handles := by rw [emit_general]; rfl
@[simp] theorem emit_handle (j : BitVec 4) : (emit l p cmd s).2.handle j = s.handle j := by
  simp [State.handle]
@[simp] theorem emit_hasSlot (j : BitVec 4) : (emit l p cmd s).2.HasSlot j ↔ s.HasSlot j := by
  simp [State.HasSlot]
theorem run_emit : Run k s (emit l p cmd s).2 (s.bracketAt 0 l (encodeBus s.cfg s.xferCount p cmd)) := by
  refine ⟨by simp, by simp, by simp, ?_, ?_, ?_, ?_⟩ <;> rw [emit_general] <;> rfl

@[simp] theorem emitFor_cfg : (emitFor k cmd s).2.cfg = s.cfg := emit_cfg ..
@[simp] theorem emitFor_handles : (emitFor k cmd s).2.handles = s.handles := emit_handles ..
@[simp] theorem emitFor_handle (j : BitVec 4) : (emitFor k cmd s).2.handle j = s.handle j := emit_handle ..
@[simp] theorem emitFor_hasSlot (j : BitVec 4) : (emitFor k cmd s).2.HasSlot j ↔ s.HasSlot j := emit_hasSlot ..
theorem run_emitFor : Run k s (emitFor k cmd s).2
    (s.bracketAt 0 (s.handle k).selectLine (encodeBus s.cfg s.xferCount (s.handle k).profile cmd)) := run_emit ..

end Emit

theorem run_delay (k : BitVec 4) (t : Nat) (s : State) : Run k s (delay t s) [.delay t] :=
  ⟨rfl, rfl, fun _ _ => rfl, rfl, rfl, rfl, rfl⟩

@[simp] theorem delay_handle (t : Nat) (s : State) (j : BitVec 4) : (delay t s).handle j = s.handle j := rfl
@[simp] theorem delay_hasSlot (t : Nat) (s : State) (j : BitVec 4) : (delay t s).HasSlot j ↔ s.HasSlot j := Iff.rfl

theorem run_driveReset (k : BitVec 4) (b : Bool) (s : State) : Run k s (driveReset b s) [.resetLine b] :=
  ⟨rfl, rfl, fun _ _ => rfl, rfl, rfl, rfl, rfl⟩

/-! Counting brackets and delays. -/

@[simp] theorem brackets_nil : brackets [] = 0 := rfl
@[simp] theorem delays_nil : delays [] = 0 := rfl
@[simp] theorem brackets_append (e f : List Event) : brackets (e ++ f) = brackets e + brackets f := List.countP_append
@[simp] theorem delays_append (e f : List Event) : delays (e ++ f) = delays e + delays f := List.countP_append
@[simp] theorem brackets_delay (t : Nat) (e : List Event) : brackets (.delay t :: e) = brackets e := by
  simp [brackets]
@[simp] theorem delays_delay (t : Nat) (e : List Event) : delays (.delay t :: e) = delays e + 1 := by simp [delays]
@[simp] theorem brackets_resetLine (b : Bool) (e : List Event) : brackets (.resetLine b :: e) = brackets e := by
  simp [brackets]
@[simp] theorem delays_resetLine (b : Bool) (e : List Event) : delays (.resetLine b :: e) = delays e := by
  simp [delays]

theorem mem_zipWith_xfer {out ins : List Byte} {x : Event} (hx : x ∈ List.zipWith Event.xfer out ins) :
    ∃ o i, x = .xfer o i := by
  induction out generalizing ins with
  | nil => simp at hx
  | cons o out ih =>
    cases ins with
    | nil => simp at hx
    | cons i ins =>
      rcases List.mem_cons.mp hx with h | h
      · exact ⟨o, i, h⟩
      · exact ih h

@[simp] theorem brackets_bracketAt (s : State) (i l : Nat) (out : List Byte) : brackets (s.bracketAt i l out) = 1 := by
  simp only [brackets, State.bracketAt, bracketEvents, List.countP_cons, List.countP_append, List.countP_nil]
  rw [List.countP_eq_zero.mpr (fun x hx => by obtain ⟨_, _, rfl⟩ := mem_zipWith_xfer hx; simp)]
  simp

@[simp] theorem delays_bracketAt (s : State) (i l : Nat) (out : List Byte) : delays (s.bracketAt i l out) = 0 := by
  simp only [delays, State.bracketAt, bracketEvents, List.countP_cons, List.countP_append, List.countP_nil]
  rw [List.countP_eq_zero.mpr (fun x hx => by obtain ⟨_, _, rfl⟩ := mem_zipWith_xfer hx; simp)]
  simp

/-! The status read and the poll: what they do to handle `k`. -/

theorem run_statusBytes (k : BitVec 4) (s : State) :
    ∃ evs, Run k s (statusBytes k s).2 evs ∧ brackets evs ≤ 2 ∧ delays evs = 0 ∧
      (statusBytes k s).2.handle k = s.handle k := by
  unfold statusBytes
  split
  · exact ⟨_, (run_emitFor _ _ _).trans (run_emitFor _ _ _), by simp, by simp, by simp⟩
  · exact ⟨_, run_emitFor _ _ _, by simp, by simp, by simp⟩

/-- A status read writes the snapshot and the mode of handle `k`, and nothing else of any handle. -/
theorem run_statusRead (k : BitVec 4) (s : State) :
    ∃ evs, Run k s (statusRead k s).2 evs ∧ brackets evs ≤ 2 ∧ delays evs = 0 ∧
      ((statusRead k s).2.handle k = s.handle k ∨
        (statusRead k s).2.handle k = { s.handle k with
          snap := ⟨true, (statusRead k s).1⟩, mode := modeAfterStatus (s.handle k).mode (statusRead k s).1.busy }) := by
  obtain ⟨evs, hr, hb, hd, hh⟩ := run_statusBytes k s
  unfold statusRead
  refine ⟨_, (hr.trans (run_setHandle _ _ _)).trans (run_setHandle _ _ _), by simpa using hb, by simpa using hd, ?_⟩
  by_cases hs : (statusBytes k s).2.HasSlot k
  · right; simp [State.setSnap, State.setMode, handle_setHandle_self _ k _ hs, hh]
  · left
    simp only [State.setSnap, State.setMode, setHandle_setHandle, handle_setHandle_noSlot _ hs, hh]

/-- The poll's loop: handle `k` keeps everything but its snapshot and its mode. -/
theorem run_pollLoop (k : BitVec 4) (n : Nat) (f : Bool) (s : State) :
    ∃ evs, Run k s (pollLoop k n f s).2 evs ∧ brackets evs ≤ 2 * n ∧ delays evs ≤ n ∧
      ∃ snap mode, (pollLoop k n f s).2.handle k = { s.handle k with snap := snap, mode := mode } := by
  induction n generalizing f s with
  | zero => exact ⟨[], Run.refl k s, by simp, by simp, _, _, rfl⟩
  | succ n ih =>
    have h0 : ∃ e, Run k s (if f then s else pollDelay s) e ∧ brackets e = 0 ∧ delays e ≤ 1 ∧
        (if f then s else pollDelay s).handle k = s.handle k := by
      unfold pollDelay
      split
      · exact ⟨[], Run.refl k s, rfl, by simp, rfl⟩
      · split
        · exact ⟨_, run_delay k _ s, by simp, by simp, rfl⟩
        · exact ⟨[], Run.refl k s, rfl, by simp, rfl⟩
    obtain ⟨e0, r0, b0, d0, hh0⟩ := h0
    rw [pollLoop]
    generalize (if f then s else pollDelay s) = s0 at r0 hh0 ⊢
    obtain ⟨e1, r1, b1, d1, hh1⟩ := run_statusRead k s0
    have hh1' : ∃ snap mode, (statusRead k s0).2.handle k = { s.handle k with snap := snap, mode := mode } := by
      rw [← hh0]
      rcases hh1 with h | h
      · exact ⟨_, _, h⟩
      · exact ⟨_, _, h⟩
    dsimp only
    split
    · obtain ⟨e2, r2, b2, d2, sn, mo, hh2⟩ := ih false (statusRead k s0).2
      obtain ⟨sn', mo', hh1'⟩ := hh1'
      refine ⟨_, (r0.trans r1).trans r2, ?_, ?_, sn, mo, by rw [hh2, hh1']⟩ <;>
        simp only [brackets_append, delays_append] <;> omega
    · refine ⟨_, r0.trans r1, ?_, ?_, hh1'⟩ <;> simp only [brackets_append, delays_append] <;> omega

/-! Identification and 4-byte mode. -/

theorem run_identifyBus (k : BitVec 4) (l : Nat) (p : Profile) (s : State) :
    ∃ evs, Run k s (identifyBus l p s).2 evs ∧ brackets evs ≤ 2 ∧ delays evs = 0 ∧ (identifyBus l p s).2.handle k = s.handle k := by
  unfold identifyBus
  dsimp only
  split
  · exact ⟨_, (run_emit l p .rdid s k).trans (run_emit l p .eid _ k), by simp, by simp, by simp⟩
  · exact ⟨_, run_emit l p .rdid s k, by simp, by simp, by simp⟩

theorem run_enable4b (k : BitVec 4) (s : State) :
    ∃ evs, Run k s (enable4b k s) evs ∧ brackets evs ≤ 1 ∧ delays evs = 0 ∧ (enable4b k s).handle k = s.handle k := by
  unfold enable4b
  split
  · exact ⟨_, run_emitFor _ _ _, by simp, by simp, by simp⟩
  · exact ⟨[], Run.refl k s, by simp, rfl, rfl⟩

/-- The brackets of a hardware reset write no handle. -/
theorem run_reenableAll (k : BitVec 4) (hs : List Handle) (s : State) :
    ∃ evs, Run k s (reenableAll hs s) evs ∧ brackets evs ≤ hs.length ∧ delays evs = 0 ∧
      (reenableAll hs s).handles = s.handles := by
  induction hs generalizing s with
  | nil => exact ⟨[], Run.refl k s, by simp, rfl, rfl⟩
  | cons h rest ih =>
    rw [reenableAll]
    split
    · obtain ⟨e, r, b, d, hh⟩ := ih (emit h.selectLine h.profile .en4b s).2
      refine ⟨_, (run_emit _ _ _ _ k).trans r, ?_, ?_, by rw [hh, emit_handles]⟩
      · simp only [brackets_append, brackets_bracketAt, List.length_cons]; omega
      · simp only [delays_append, delays_bracketAt, d]
    · obtain ⟨e, r, b, d, hh⟩ := ih s
      exact ⟨e, r, by simp only [List.length_cons]; omega, d, hh⟩

end Sys2Proof.Machine
end

