-- ==== Sys2Proof/Laws/Bus.lean ====
section
/-! SUPPORT. What the bus operations do, said once: a bracket, a bracket of handle `k`, a status read, a poll, an
identification, the brackets of a hardware reset, each in closed form. -/

namespace Sys2Proof.Machine

open Sys2Proof

/-- The bus is idle: no bracket open, every line deasserted. -/
structure State.Quiet (s : State) : Prop where
  busSel : s.busSel = none
  lines : ∀ l, s.csLines.set l false = s.csLines

theorem set_replicate_false (n l : Nat) : (List.replicate n false).set l false = List.replicate n false := by
  apply List.ext_getElem
  · simp
  · intro i h1 h2
    simp

theorem State.Inv.quiet {s : State} (hi : s.Inv) : s.Quiet :=
  ⟨hi.busIdle, fun l => by rw [hi.csIdle]; exact set_replicate_false _ _⟩

theorem State.Quiet.setHandle {s : State} (hq : s.Quiet) (k : BitVec 4) (h : Handle) : (s.setHandle k h).Quiet :=
  ⟨by simpa using hq.busSel, fun l => by simpa using hq.lines l⟩

theorem State.Quiet.advance {s : State} (hq : s.Quiet) (n : Nat) (e : List Event) : (s.advance n e).Quiet :=
  ⟨hq.busSel, hq.lines⟩

/-- A valid handle has a slot. -/
theorem hasSlot_of_valid {s : State} {k : BitVec 4} (hb : s.handles.length = s.cfg.numHandles)
    (hv : validIndex s k = true) : s.HasSlot k := by
  simp only [validIndex, indexOk, Bool.and_eq_true, decide_eq_true_eq] at hv
  refine ⟨?_, by omega⟩
  rintro rfl
  simp at hv

theorem validHandle_index {s : State} {k : BitVec 4} (hv : validHandle s k = true) : validIndex s k = true := by
  simp only [validHandle, Bool.and_eq_true] at hv; exact hv.1

theorem validHandle_bound {s : State} {k : BitVec 4} (hv : validHandle s k = true) : (s.handle k).bound = true := by
  simp only [validHandle, Bool.and_eq_true] at hv; exact hv.2

theorem State.Inv.hasSlot {s : State} {k : BitVec 4} (hi : s.Inv) (hv : validHandle s k = true) : s.HasSlot k :=
  hasSlot_of_valid hi.bank (validHandle_index hv)

/-! Brackets. -/

/-- A bracket on an idle bus: the answers come back, the bracket's events are emitted, nothing else changes. -/
theorem bracket_eq (l : Nat) (out : List Byte) (s : State) (hq : s.Quiet) :
    bracket l out s = (s.answers 0 out.length, s.advance out.length (s.bracketAt 0 l out)) := by
  rw [bracket_general]
  refine Prod.ext rfl ?_
  simp [State.advance, hq.busSel, hq.lines]

theorem emit_eq (l : Nat) (p : Profile) (cmd : BusCmd) (s : State) (hq : s.Quiet) :
    emit l p cmd s = (s.answers 0 (encodeBus s.cfg s.xferCount p cmd).length,
      s.advance (encodeBus s.cfg s.xferCount p cmd).length
        (s.bracketAt 0 l (encodeBus s.cfg s.xferCount p cmd))) :=
  bracket_eq _ _ _ hq

theorem bracketAt_advance (s : State) (n : Nat) (e : List Event) (i l : Nat) (out : List Byte) :
    (s.advance n e).bracketAt i l out = s.bracketAt (n + i) l out := by
  simp [State.bracketAt]

@[simp] theorem bracketAt_setHandle (s : State) (k : BitVec 4) (h : Handle) (i l : Nat) (out : List Byte) :
    (s.setHandle k h).bracketAt i l out = s.bracketAt i l out := by
  simp [State.bracketAt]

/-- The state inside an operation on handle `k`: `n` exchanges and the events `e` since its start in `s`, and the
handle at value `h`. -/
def State.during (s : State) (k : BitVec 4) (n : Nat) (e : List Event) (h : Handle) : State :=
  (s.advance n e).setHandle k h

section During

variable (s : State) (k : BitVec 4) (n : Nat) (e : List Event) (h : Handle)

theorem during_start : s.setHandle k h = s.during k 0 [] h := by simp [State.during, advance_zero]
@[simp] theorem during_cfg : (s.during k n e h).cfg = s.cfg := by simp [State.during]
@[simp] theorem during_events : (s.during k n e h).events = s.events ++ e := by simp [State.during]
@[simp] theorem during_responses : (s.during k n e h).responses = s.responses := by simp [State.during]
@[simp] theorem during_xferCount : (s.during k n e h).xferCount = s.xferCount + n := by simp [State.during]
@[simp] theorem during_answer (i : Nat) : (s.during k n e h).answer i = s.answer (n + i) := by simp [State.during]
@[simp] theorem during_answers (i m : Nat) : (s.during k n e h).answers i m = s.answers (n + i) m := by
  simp [State.during]
@[simp] theorem during_bracketAt (i l : Nat) (out : List Byte) :
    (s.during k n e h).bracketAt i l out = s.bracketAt (n + i) l out := by
  simp [State.during, bracketAt_advance]
theorem during_handle (hs : s.HasSlot k) : (s.during k n e h).handle k = h :=
  handle_setHandle_self _ _ _ hs
@[simp] theorem during_setHandle (h' : Handle) : (s.during k n e h).setHandle k h' = s.during k n e h' := by
  simp [State.during]
@[simp] theorem during_advance (m : Nat) (f : List Event) :
    (s.during k n e h).advance m f = s.during k (n + m) (e ++ f) h := by
  simp [State.during, setHandle_advance]
theorem during_delay (t : Nat) : delay t (s.during k n e h) = s.during k n (e ++ [.delay t]) h := by
  have : delay t (s.during k n e h) = (s.during k n e h).advance 0 [.delay t] := by simp [delay, State.advance]
  rw [this]; simp
theorem during_quiet (hq : s.Quiet) : (s.during k n e h).Quiet := (hq.advance n e).setHandle k h

theorem during_setMode (hs : s.HasSlot k) (m : Mode) :
    (s.during k n e h).setMode k m = s.during k n e { h with mode := m } := by
  simp [State.setMode, during_handle s k n e h hs]
theorem during_setProfile (hs : s.HasSlot k) (p : Profile) :
    (s.during k n e h).setProfile k p = s.during k n e { h with profile := p } := by
  simp [State.setProfile, during_handle s k n e h hs]
theorem during_setSnap (hs : s.HasSlot k) (f : StatusFlags) :
    (s.during k n e h).setSnap k f = s.during k n e { h with snap := ⟨true, f⟩ } := by
  simp [State.setSnap, during_handle s k n e h hs]
theorem during_setMismatch (hs : s.HasSlot k) (c : Word) :
    (s.during k n e h).setMismatch k c = s.during k n e { h with mismatch := c } := by
  simp [State.setMismatch, during_handle s k n e h hs]

/-- A bracket of handle `k`, inside an operation on it. -/
theorem emitFor_during (hq : s.Quiet) (hs : s.HasSlot k) (cmd : BusCmd) :
    emitFor k cmd (s.during k n e h) =
      (s.answers n (encodeBus s.cfg (s.xferCount + n) h.profile cmd).length,
        s.during k (n + (encodeBus s.cfg (s.xferCount + n) h.profile cmd).length)
          (e ++ s.bracketAt n h.selectLine (encodeBus s.cfg (s.xferCount + n) h.profile cmd)) h) := by
  rw [emitFor, during_handle s k n e h hs, emit_eq _ _ _ _ (during_quiet s k n e h hq)]
  simp

end During

/-! The status read. -/

/-- `StatusRead(k)` in closed form. -/
theorem statusRead_during (s : State) (k : BitVec 4) (n : Nat) (e : List Event) (h : Handle) (hq : s.Quiet)
    (hs : s.HasSlot k) :
    statusRead k (s.during k n e h) =
      (s.statusFlags n h.profile,
        s.during k (n + statusLen s.cfg h.profile) (e ++ s.statusEvents n h.selectLine h.profile)
          { h with snap := ⟨true, s.statusFlags n h.profile⟩,
                   mode := modeAfterStatus h.mode (s.statusFlags n h.profile).busy }) := by
  unfold statusRead statusBytes
  simp only [during_handle s k n e h hs, during_cfg, emitFor_during s k n e h hq hs]
  by_cases hc : readsSecondary s.cfg h.profile = true
  · simp only [hc, if_true, emitFor_during s k _ _ h hq hs]
    simp [encodeBus, State.statusFlags, State.statusEvents, statusLen, hc, during_setSnap, during_setMode,
      during_handle, hs, opByte, opc, Nat.add_assoc]
  · simp only [Bool.not_eq_true] at hc
    simp [encodeBus, State.statusFlags, State.statusEvents, statusLen, hc, during_setSnap, during_setMode,
      during_handle, hs, opByte, opc]

/-! The poll. -/

theorem pollDelay_during (s : State) (k : BitVec 4) (n : Nat) (e : List Event) (h : Handle) :
    pollDelay (s.during k n e h) =
      s.during k n (e ++ if 0 < s.cfg.tPoll then [.delay s.cfg.tPoll] else []) h := by
  unfold pollDelay
  by_cases ht : 0 < s.cfg.tPoll <;> simp [ht, during_delay]

/-- The handle after `m` status reads of a poll that begins at exchange `i`, while the chip stays busy. -/
def State.pollHandle (s : State) (i : Nat) (h : Handle) : Nat → Handle
  | 0 => h
  | m + 1 => { h with snap := ⟨true, s.pollFlags i h.profile m⟩ }

/-- One round of the poll's loop, in closed form. -/
theorem pollLoop_succ (s : State) (k : BitVec 4) (i m b : Nat) (e : List Event) (h : Handle) (hq : s.Quiet)
    (hs : s.HasSlot k) (f : Bool) (hf : f = decide (m = 0)) :
    pollLoop k (b + 1) f (s.during k (i + m * statusLen s.cfg h.profile)
        (e ++ s.pollEvents i h.selectLine h.profile m) (s.pollHandle i h m)) =
      if (s.pollFlags i h.profile m).busy then
        pollLoop k b false (s.during k (i + (m + 1) * statusLen s.cfg h.profile)
          (e ++ s.pollEvents i h.selectLine h.profile (m + 1)) (s.pollHandle i h (m + 1)))
      else (.ok, s.during k (i + (m + 1) * statusLen s.cfg h.profile)
        (e ++ s.pollEvents i h.selectLine h.profile (m + 1))
        { s.pollHandle i h (m + 1) with mode := modeAfterStatus h.mode false }) := by
  have hsl : (s.pollHandle i h m).selectLine = h.selectLine := by cases m <;> rfl
  have hpr : (s.pollHandle i h m).profile = h.profile := by cases m <;> rfl
  have hmo : (s.pollHandle i h m).mode = h.mode := by cases m <;> rfl
  have hstart : (if f then s.during k (i + m * statusLen s.cfg h.profile)
        (e ++ s.pollEvents i h.selectLine h.profile m) (s.pollHandle i h m)
      else pollDelay (s.during k (i + m * statusLen s.cfg h.profile)
        (e ++ s.pollEvents i h.selectLine h.profile m) (s.pollHandle i h m))) =
      s.during k (i + m * statusLen s.cfg h.profile) (e ++ s.pollEvents i h.selectLine h.profile m ++
        if 0 < m ∧ 0 < s.cfg.tPoll then [.delay s.cfg.tPoll] else []) (s.pollHandle i h m) := by
    subst hf
    rcases Nat.eq_zero_or_pos m with rfl | hm
    · simp
    · have : m ≠ 0 := by omega
      simp [this, pollDelay_during, hm]
  have hnext : ∀ (x : Snapshot) (y : Mode), { s.pollHandle i h m with snap := x, mode := y } =
      { h with snap := x, mode := y } := by
    intro x y; cases m <;> rfl
  rw [pollLoop, hstart, statusRead_during s k _ _ _ hq hs, hnext]
  have hlen : i + m * statusLen s.cfg h.profile + statusLen s.cfg h.profile =
      i + (m + 1) * statusLen s.cfg h.profile := by
    rw [Nat.add_one_mul]; omega
  simp only [hsl, hpr, hmo, hlen]
  rw [show s.statusFlags (i + m * statusLen s.cfg h.profile) h.profile = s.pollFlags i h.profile m from rfl]
  have hev : e ++ s.pollEvents i h.selectLine h.profile m ++
        (if 0 < m ∧ 0 < s.cfg.tPoll then [.delay s.cfg.tPoll] else []) ++
        s.statusEvents (i + m * statusLen s.cfg h.profile) h.selectLine h.profile =
      e ++ s.pollEvents i h.selectLine h.profile (m + 1) := by
    simp [State.pollEvents, List.append_assoc]
  rw [hev]
  by_cases hb : (s.pollFlags i h.profile m).busy = true
  · simp [hb, State.pollHandle, modeAfterStatus]
  · simp only [Bool.not_eq_true] at hb
    simp [hb, State.pollHandle]

/-- The poll's loop after `m` busy status reads, with `b` left: it ends at the first status read that decodes busy = 0. -/
theorem pollLoop_ok (s : State) (k : BitVec 4) (i : Nat) (e : List Event) (h : Handle) (hq : s.Quiet)
    (hs : s.HasSlot k) (j m b : Nat) (hj : j < b)
    (hbusy : ∀ x < j, (s.pollFlags i h.profile (m + x)).busy = true)
    (hidle : (s.pollFlags i h.profile (m + j)).busy = false) (f : Bool) (hf : f = decide (m = 0)) :
    pollLoop k b f (s.during k (i + m * statusLen s.cfg h.profile)
        (e ++ s.pollEvents i h.selectLine h.profile m) (s.pollHandle i h m)) =
      (.ok, s.during k (i + (m + j + 1) * statusLen s.cfg h.profile)
        (e ++ s.pollEvents i h.selectLine h.profile (m + j + 1))
        { s.pollHandle i h (m + j + 1) with mode := modeAfterStatus h.mode false }) := by
  induction j generalizing m b f with
  | zero =>
    obtain ⟨b, rfl⟩ : ∃ c, b = c + 1 := ⟨b - 1, by omega⟩
    rw [pollLoop_succ s k i m b e h hq hs f hf]
    simp only [Nat.add_zero] at hidle
    simp [hidle]
  | succ j ih =>
    obtain ⟨b, rfl⟩ : ∃ c, b = c + 1 := ⟨b - 1, by omega⟩
    rw [pollLoop_succ s k i m b e h hq hs f hf]
    have h0 : (s.pollFlags i h.profile m).busy = true := by simpa using hbusy 0 (by omega)
    rw [if_pos h0, ih (m + 1) b (by omega) _ _ false (by simp)]
    · simp only [Nat.add_assoc, Nat.add_comm 1 j]
    · intro x hx
      have := hbusy (x + 1) (by omega)
      rwa [show m + 1 + x = m + (x + 1) by omega]
    · rwa [show m + 1 + j = m + (j + 1) by omega]

/-- The poll's loop when every status read it may make decodes busy = 1. -/
theorem pollLoop_timeout (s : State) (k : BitVec 4) (i : Nat) (e : List Event) (h : Handle) (hq : s.Quiet)
    (hs : s.HasSlot k) (b m : Nat) (hbusy : ∀ x < b, (s.pollFlags i h.profile (m + x)).busy = true) (f : Bool)
    (hf : f = decide (m = 0)) :
    pollLoop k b f (s.during k (i + m * statusLen s.cfg h.profile)
        (e ++ s.pollEvents i h.selectLine h.profile m) (s.pollHandle i h m)) =
      (.busyTimeout, s.during k (i + (m + b) * statusLen s.cfg h.profile)
        (e ++ s.pollEvents i h.selectLine h.profile (m + b)) (s.pollHandle i h (m + b))) := by
  induction b generalizing m f with
  | zero => simp [pollLoop]
  | succ b ih =>
    rw [pollLoop_succ s k i m b e h hq hs f hf]
    have h0 : (s.pollFlags i h.profile m).busy = true := by simpa using hbusy 0 (by omega)
    rw [if_pos h0, ih (m + 1) _ false (by simp)]
    · simp only [Nat.add_assoc, Nat.add_comm 1 b]
    · intro x hx
      have := hbusy (x + 1) (by omega)
      rwa [show m + 1 + x = m + (x + 1) by omega]

/-! Identification. -/

/-- `IdentifyBus(l)` in closed form: the two formats do not read the profile. -/
theorem identifyBus_eq (l : Nat) (p : Profile) (s : State) (hq : s.Quiet) :
    identifyBus l p s = ((s.answer 1, s.idType, s.answer 3), s.advance s.idCount (s.idEvents l)) := by
  unfold identifyBus
  simp only [emit_eq l p .rdid s hq, emit_eq l p .eid _ (hq.advance _ _)]
  by_cases hm : vendorOf s.cfg (s.answer 1) = .macronix
  · simp [encodeBus, opByte, opc, State.idType, State.idCount, State.idEvents, State.idIsMacronix, hm,
      bracketAt_advance]
  · simp [encodeBus, opByte, opc, State.idType, State.idCount, State.idEvents, State.idIsMacronix, hm]

/-! The brackets of a hardware reset. -/

/-- The enable-4-byte-mode brackets of a list of handles in closed form. -/
theorem reenableAll_eq (hs : List Handle) (s : State) (hq : s.Quiet) :
    reenableAll hs s = s.advance (hs.countP needs4b) (s.reenableEvents 0 hs) := by
  suffices H : ∀ (n : Nat) (e : List Event), reenableAll hs (s.advance n e) =
      s.advance (n + hs.countP needs4b) (e ++ s.reenableEvents n hs) by
    have := H 0 []
    rwa [advance_zero, Nat.zero_add, List.nil_append] at this
  induction hs with
  | nil => intro n e; simp [reenableAll, State.reenableEvents]
  | cons h rest ih =>
    intro n e
    rw [reenableAll]
    by_cases hn : needs4b h = true
    · have hc : h.bound = true ∧ h.profile.addrWidth = .four := by
        simpa [needs4b] using hn
      rw [if_pos hc, emit_eq _ _ _ _ (hq.advance n e), advance_advance, ih]
      simp [State.reenableEvents, hn, encodeBus, bracketAt_advance, Nat.add_comm, Nat.add_left_comm]
    · have hc : ¬(h.bound = true ∧ h.profile.addrWidth = .four) := by
        intro hc; apply hn; simp [needs4b, hc]
      rw [if_neg hc, ih]
      simp [State.reenableEvents, hn]

end Sys2Proof.Machine
end

