-- ==== Sys2Proof/Laws/PerInstr.lean ====
section
/-! SUPPORT. Per-instruction laws. Family `HeaderMatches`: the header byte the encoder writes matches the instruction's
row of the opcode table (rules R91, R92, R93), with its handle index in the upper half; a bus format (R106) has no
header. -/

namespace Sys2Proof.Laws.HeaderMatches

open Sys2Proof

/-- The encoded header byte matches the row's (mask, match) pair and carries the index; there is a row exactly where
there is an encoding. -/
def Statement (i : Instr) : Prop :=
  (encode i).isSome = i.headerRow.isSome ∧
    ∀ q mask m, encode i = some q → i.headerRow = some (mask, m) →
      q.hdr &&& mask = m ∧ q.hdr.extractLsb' 4 4 = i.index

/-- A request whose header is `k ++ o` matches the row (mask, m) if `o` does. -/
theorem of_header (i : Instr) (o : BitVec 4) (mask m : Byte) (q : Request) (he : encode i = some q)
    (hh : q.hdr = i.index ++ o) (hr : i.headerRow = some (mask, m))
    (hm : ∀ k : BitVec 4, (k ++ o : Byte) &&& mask = m ∧ (k ++ o : Byte).extractLsb' 4 4 = k) : Statement i := by
  refine ⟨by rw [he, hr]; rfl, fun q' mask' m' he' hr' => ?_⟩
  rw [he] at he'
  rw [hr] at hr'
  cases he'
  cases hr'
  rw [hh]
  exact hm i.index

theorem identify (k : BitVec 4) : Statement (.identify k) :=
  of_header _ 0x0 0x0F 0x00 _ rfl rfl rfl (by decide)
theorem read (k : BitVec 4) (addr len : Word) : Statement (.read k addr len) :=
  of_header _ 0x1 0x0F 0x01 _ rfl rfl rfl (by decide)
theorem program (k : BitVec 4) (addr : Word) (data : List Byte) (budget : Word) : Statement (.program k addr data budget) :=
  of_header _ 0x2 0x0F 0x02 _ rfl rfl rfl (by decide)
theorem eraseChip (k : BitVec 4) (budget : Word) : Statement (.eraseChip k budget) :=
  of_header _ 0x3 0x0F 0x03 _ rfl rfl rfl (by decide)
theorem eraseBlock (k : BitVec 4) (addr budget : Word) : Statement (.eraseBlock k addr budget) :=
  of_header _ 0x4 0x0F 0x04 _ rfl rfl rfl (by decide)
theorem readStatus (k : BitVec 4) : Statement (.readStatus k) :=
  of_header _ 0x5 0x0F 0x05 _ rfl rfl rfl (by decide)
theorem softwareReset (k : BitVec 4) : Statement (.softwareReset k) :=
  of_header _ 0x6 0x0F 0x06 _ rfl rfl rfl (by decide)
theorem hardwareReset (k : BitVec 4) : Statement (.hardwareReset k) :=
  of_header _ 0x7 0x0F 0x07 _ rfl rfl rfl (by decide)
theorem bindDevice (k : BitVec 4) (sel : Byte) : Statement (.bindDevice k sel) :=
  of_header _ 0x8 0x0F 0x08 _ rfl rfl rfl (by decide)
theorem readVerify (k : BitVec 4) (addr len : Word) (pattern : Byte) : Statement (.readVerify k addr len pattern) :=
  of_header _ 0x9 0x0F 0x09 _ rfl rfl rfl (by decide)
theorem reservedAB (k : BitVec 4) (x : BitVec 1) : Statement (.reservedAB k x) := by
  refine of_header _ ((0b101 : BitVec 3) ++ x) 0x0E 0x0A _ rfl rfl rfl ?_
  revert x; decide
theorem reservedCF (k : BitVec 4) (x : BitVec 2) : Statement (.reservedCF k x) := by
  refine of_header _ ((0b11 : BitVec 2) ++ x) 0x0C 0x0C _ rfl rfl rfl ?_
  revert x; decide

/-- A bus format has neither a header nor a row of format REQ. -/
theorem of_bus (i : Instr) (he : encode i = none) (hr : i.headerRow = none) : Statement i := by
  refine ⟨by rw [he, hr]; rfl, fun q mask m he' _ => ?_⟩
  rw [he] at he'
  cases he'

theorem bRdid (k : BitVec 4) : Statement (.bRdid k) := of_bus _ rfl rfl
theorem bEid (k : BitVec 4) : Statement (.bEid k) := of_bus _ rfl rfl
theorem bRdsr (k : BitVec 4) : Statement (.bRdsr k) := of_bus _ rfl rfl
theorem bRdsr2 (k : BitVec 4) : Statement (.bRdsr2 k) := of_bus _ rfl rfl
theorem bWren (k : BitVec 4) : Statement (.bWren k) := of_bus _ rfl rfl
theorem bPp (k : BitVec 4) (addr : Word) (data : List Byte) : Statement (.bPp k addr data) := of_bus _ rfl rfl
theorem bCe (k : BitVec 4) : Statement (.bCe k) := of_bus _ rfl rfl
theorem bBe (k : BitVec 4) (addr : Word) : Statement (.bBe k addr) := of_bus _ rfl rfl
theorem bRead (k : BitVec 4) (addr len : Word) : Statement (.bRead k addr len) := of_bus _ rfl rfl
theorem bRsten (k : BitVec 4) : Statement (.bRsten k) := of_bus _ rfl rfl
theorem bRst (k : BitVec 4) : Statement (.bRst k) := of_bus _ rfl rfl
theorem bEn4b (k : BitVec 4) : Statement (.bEn4b k) := of_bus _ rfl rfl

end Sys2Proof.Laws.HeaderMatches
end

