-- ==== Sys2Proof/Tests/Slice0.lean ====
section
/-! SUPPORT. Tests and witnesses. Expected results are the vectors of 95_test_vectors.md (their ids stand in the test
names) or hand readings of the rule named. A `witness_` theorem shows concrete values that meet the hypotheses of the
obligation of that name. -/

namespace Sys2Proof.Tests

open Sys2Proof Sys2Proof.Machine

/-! A small bench: registry X; handle 1 a Micron (vector I1) on line 0 in mode `m`, handle 2 a Macronix (vector I8) on
line 1 in Standby, handle 3 unbound; the chips will answer `bytes`. -/

abbrev X : Config := Config.illustrative
abbrev micron : Profile := (resolve X 0x20 0xBA 0x19).1
abbrev macronix : Profile := (resolve X 0xC2 0x17 0x18).1
abbrev noDensity : Profile := (resolve X 0x20 0xBA 0x55).1
abbrev infineon : Profile := (resolve X 0x01 0x02 0x19).1
abbrev unknown : Profile := (resolve X 0xEF 0x40 0x18).1

def bound (l : Nat) (p : Profile) (m : Mode) : Handle :=
  { bound := true, selectLine := l, profile := p, mode := m, snap := Snapshot.empty, mismatch := 0 }

def benchOf (h1 h2 h3 : Handle) (bytes : List Byte) : State :=
  { State.resetOf X with handles := [h1, h2, h3], incoming := bytes, events := [] }

def bench (m : Mode) (bytes : List Byte) : State :=
  benchOf (bound 0 micron m) (bound 1 macronix .standby) (Handle.unbound X) bytes

def after : Host.Outcome State Fault Refusal → State
  | .next s => s
  | .fault _ => State.reset
  | .refused _ => State.reset

/-- What came of running `i`: the events, the last response. -/
def events (i : Instr) (s : State) : List Event := (after (exec i s)).events
def response (i : Instr) (s : State) : Option Response := (after (exec i s)).responses.getLast?
def handle (i : Instr) (k : BitVec 4) (s : State) : Handle := (after (exec i s)).handle k

/-! WellFormed: each check refuses an ill-formed term, and X passes them all. -/

theorem test_wf_X : X.wf = true := by decide
theorem test_wf_countsOk : Config.countsOk { X with numHandles := 16 } = false := by decide
theorem test_wf_countsOk_zero : Config.countsOk { X with numSelect := 0 } = false := by decide
theorem test_wf_genericBitsOk : Config.genericBitsOk { X with genWelBit := 0 } = false := by decide
theorem test_wf_delaysOk : Config.delaysOk { X with tHrstSettle := 1 } = false := by decide
theorem test_wf_keysOk : Config.keysOk { X with vendorTable := [(1, .micron), (1, .infineon)] } = false := by decide
theorem test_wf_entryOk_width : (densX 0x1000001 .three layoutLX).ok = false := by decide
theorem test_wf_entryOk_max : (densX 0x100000000 .four layoutLX).ok = true := by decide
theorem test_wf_densityOk :
    Config.densityOk { X with densTable := [((1, 1), { densX 0x100 .three layoutLX with pageSize := 0 })] } = false := by
  decide
theorem test_wf_resetOpcodesOk : Config.resetOpcodesOk { X with opcTable := [] } = false := by decide
theorem test_wf_entryOpcodesOk :
    Config.entryOpcodesOk { X with opcTable := [((.micron, .wren, .three), 6)] } .micron (densX 0x100 .three layoutLI) =
      false := by decide
theorem test_wf_arrayOpcodesOk :
    Config.arrayOpcodesOk { X with opcTable := X.opcTable.filter fun r => r.1.2.1 ≠ .en4b } = false := by decide
theorem test_wf_unknownEmpty : Config.unknownEmpty { X with opcTable := [((.unknown, .read, .three), 3)] } = false := by
  decide
theorem test_wf_config : Config.wf { X with numHandles := 0 } = false := by decide
theorem test_wf_index_zero : indexOk X 0 = false := by decide
theorem test_wf_index_four : indexOk X 4 = false := by decide
theorem test_wf_index_three : indexOk X 3 = true := by decide
theorem test_wf_reserved : Instr.notReserved (.reservedAB 1 0) = false := by decide
theorem test_wf_reservedCF : Instr.notReserved (.reservedCF 1 0) = false := by decide
theorem test_wf_select : Instr.selectOk X (.bindDevice 1 3) = false := by decide
theorem test_wf_instr : Instr.wf X (.read 4 0 1) = false ∧ Instr.wf X (.read 3 0 1) = true := by decide

/-! Decoding: every row's word, written out from R92, R93 (headers) and R106 with registry X (brackets). -/

/-- A request with header byte `hdr` and distinct operands in every field. -/
def req (hdr : Byte) : Request := ⟨hdr, 0x02, 0x01020304, 7, 9, 0xAA, [0xDE]⟩

theorem test_decode_identify : decode (req 0b00010000) = .identify 1 := by decide
theorem test_decode_read : decode (req 0b00100001) = .read 2 0x01020304 7 := by decide
theorem test_decode_program : decode (req 0b00100010) = .program 2 0x01020304 [0xDE] 9 := by decide
theorem test_decode_eraseChip : decode (req 0b00010011) = .eraseChip 1 9 := by decide
theorem test_decode_eraseBlock : decode (req 0b00010100) = .eraseBlock 1 0x01020304 9 := by decide
theorem test_decode_readStatus : decode (req 0b00000101) = .readStatus 0 := by decide
theorem test_decode_softwareReset : decode (req 0b00110110) = .softwareReset 3 := by decide
theorem test_decode_hardwareReset : decode (req 0b11110111) = .hardwareReset 15 := by decide
theorem test_decode_bindDevice : decode (req 0b00011000) = .bindDevice 1 2 := by decide
theorem test_decode_readVerify : decode (req 0b00111001) = .readVerify 3 0x01020304 7 0xAA := by decide
theorem test_decode_reservedAB : decode (req 0x1A) = .reservedAB 1 0 ∧ decode (req 0x3B) = .reservedAB 3 1 := by decide
theorem test_decode_reservedCF : decode (req 0x3C) = .reservedCF 3 0 ∧ decode (req 0x3F) = .reservedCF 3 3 := by decide
theorem test_decode_tableWord_long : decodeTableWord 16 0x0118 = none := by decide
theorem test_decode_bRdid : decodeBus X micron [0x9F, 0, 0, 0] = some .rdid := by decide
theorem test_decode_bEid : decodeBus X macronix [0xAB, 0, 0, 0, 0] = some .eid := by decide
theorem test_decode_bRdsr : decodeBus X micron [0x05, 0] = some .rdsr := by decide
theorem test_decode_bRdsr2 : decodeBus X micron [0x70, 0] = some .rdsr2 ∧ decodeBus X macronix [0x70, 0] = none := by
  decide
theorem test_decode_bWren : decodeBus X micron [0x06] = some .wren := by decide
theorem test_decode_bPp : decodeBus X macronix [0x02, 0x01, 0x23, 0x00, 0x55] = some (.pp 0x012300 [0x55]) := by decide
theorem test_decode_bCe : decodeBus X micron [0xC7] = some .ce := by decide
theorem test_decode_bBe : decodeBus X micron [0xDC, 0x01, 0xFF, 0x12, 0x34] = some (.be 0x01FF1234) := by decide
theorem test_decode_bRead : decodeBus X macronix [0x03, 0x01, 0x23, 0x45, 0, 0] = some (.read 0x012345 2) := by decide
theorem test_decode_bRsten : decodeBus X micron [0x66] = some .rsten := by decide
theorem test_decode_bRst : decodeBus X micron [0x99] = some .rst := by decide
theorem test_decode_bEn4b : decodeBus X micron [0xB7] = some .en4b := by decide
theorem test_decode_noFormat : decodeBus X micron [0x9F, 0] = none ∧ decodeBus X unknown [0x06] = none := by decide

/-! Operands (vectors A2, A3, A5) and the status decoder (S4, S9, S12, S15, S17). -/

theorem test_A2_A3 : addrBytes 0 .three 0x012345 = [0x01, 0x23, 0x45] ∧ addrBytes 0 .three 0xFFFFFF = [0xFF, 0xFF, 0xFF] := by
  decide
theorem test_A5 : addrBytes 0 .four 0x01000000 = [0x01, 0x00, 0x00, 0x00] := by decide
theorem test_A7 : addrFits .three 0x01000000 = false ∧ addrFits .four 0xFFFFFFFF = true := by decide
theorem test_S4_S9 : decodeStatus layoutLM 0x03 0x10 = ⟨true, true, true, false⟩ ∧
    decodeStatus layoutLX 0x00 0x40 = ⟨false, false, false, true⟩ := by decide
theorem test_S12_S15 : decodeStatus layoutLI 0x43 0xFF = ⟨true, true, true, false⟩ ∧
    decodeStatus (genericLayout X) 0xFF 0xFF = ⟨true, true, false, false⟩ := by decide
theorem test_S17 : decodeStatus ⟨7, 1, none, none⟩ 0x80 0x00 = ⟨true, false, false, false⟩ := by decide

/-! One step of each instruction. -/

/-- PR4 step 10: an Unknown profile is stored; B6: the mode is untouched. -/
theorem test_identify_I5 : handle (.identify 1) 1 (bench .erasing [0, 0xEF, 0x40, 0x18]) = bound 0 unknown .erasing ∧
    response (.identify 1) (bench .erasing [0, 0xEF, 0x40, 0x18]) = some ⟨.identificationUnresolved, .profile unknown⟩ := by
  decide
/-- I2: a Macronix is asked twice, and the electronic ID is the device type. -/
theorem test_identify_I2 : events (.identify 2) (bench .standby [0, 0xC2, 0x20, 0x19, 0, 0, 0, 0, 0x18]) =
      bracketEvents 1 [0x9F, 0, 0, 0] [0, 0xC2, 0x20, 0x19] ++ bracketEvents 1 [0xAB, 0, 0, 0, 0] [0, 0, 0, 0, 0x18] ∧
    (handle (.identify 2) 2 (bench .standby [0, 0xC2, 0x20, 0x19, 0, 0, 0, 0, 0x18])).profile.partNumber =
      some "MX25L25645G" := by decide
/-- R1. -/
theorem test_read_R1 : events (.read 2 0x012345 2) (bench .standby [0, 0, 0, 0, 0xAA, 0x55]) =
      bracketEvents 1 [0x03, 0x01, 0x23, 0x45, 0, 0] [0, 0, 0, 0, 0xAA, 0x55] ∧
    response (.read 2 0x012345 2) (bench .standby [0, 0, 0, 0, 0xAA, 0x55]) = some ⟨.ok, .data [0xAA, 0x55]⟩ := by decide
/-- G1. -/
theorem test_read_G1 : response (.read 1 0 1) (bench .writing []) = some ⟨.notReady, .nothing⟩ ∧
    events (.read 1 0 1) (bench .writing []) = [] := by decide
/-- V1. -/
theorem test_readVerify_V1 :
    response (.readVerify 2 0x000FFE 4 0xFF) (bench .standby [0, 0, 0, 0, 0xFF, 0x00, 0x7F, 0xFF]) =
      some ⟨.ok, .verified [0xFF, 0x00, 0x7F, 0xFF] 2 [0, 1]⟩ := by decide
/-- V7: the counter restarts. -/
theorem test_readVerify_V7 :
    (handle (.readVerify 2 0x001000 4 0xFF) 2 (benchOf (Handle.unbound X) { bound 1 macronix .standby with mismatch := 2 }
      (Handle.unbound X) [0, 0, 0, 0, 0, 0, 0, 0])).mismatch = 4 := by decide
/-- P1: a budget of zero makes no status read. -/
theorem test_program_P1 : events (.program 1 0x00010000 [0xDE, 0xAD] 0) (bench .standby [1, 2, 3, 4, 5, 6, 7, 8]) =
      bracketEvents 0 [0x06] [1] ++ bracketEvents 0 [0x12, 0x00, 0x01, 0x00, 0x00, 0xDE, 0xAD] [2, 3, 4, 5, 6, 7, 8] ∧
    handle (.program 1 0x00010000 [0xDE, 0xAD] 0) 1 (bench .standby []) = bound 0 micron .writing := by decide
/-- W4: the poll stops at the first busy = 0. -/
theorem test_program_W4 :
    response (.program 1 0 [] 5) (bench .standby [0, 0, 0, 0, 0, 0, 0, 0x03, 0, 0x00, 0, 0x00, 0, 0x80]) =
      some ⟨.ok, .snapshot ⟨true, ⟨false, false, false, false⟩⟩⟩ := by decide
/-- E1: the mode stays Erasing. -/
theorem test_eraseChip_E1 : events (.eraseChip 1 0) (bench .standby [7, 8]) =
      bracketEvents 0 [0x06] [7] ++ bracketEvents 0 [0xC7] [8] ∧
    handle (.eraseChip 1 0) 1 (bench .standby [7, 8]) = bound 0 micron .erasing := by decide
/-- E5: an erase error is data, and the code is Ok. -/
theorem test_eraseChip_E5 : response (.eraseChip 2 1) (bench .standby [0, 0, 0, 0x00, 0, 0x40]) =
    some ⟨.ok, .snapshot ⟨true, ⟨false, false, false, true⟩⟩⟩ := by decide
/-- E4: no alignment test. -/
theorem test_eraseBlock_E4 : events (.eraseBlock 1 0x01FF1234 0) (bench .standby [1, 2, 3, 4, 5, 6]) =
      bracketEvents 0 [0x06] [1] ++ bracketEvents 0 [0xDC, 0x01, 0xFF, 0x12, 0x34] [2, 3, 4, 5, 6] := by decide
/-- S-op1: busy keeps the mode. -/
theorem test_readStatus_Sop1 : handle (.readStatus 1) 1 (bench .writing [0, 0x03, 0, 0x10]) =
    { bound 0 micron .writing with snap := ⟨true, ⟨true, true, true, false⟩⟩ } := by decide
/-- S-op2: busy = 0 ends Writing. -/
theorem test_readStatus_Sop2 : handle (.readStatus 1) 1 (bench .writing [0, 0x00, 0, 0x20]) =
    { bound 0 micron .standby with snap := ⟨true, ⟨false, false, false, true⟩⟩ } := by decide
/-- X1. -/
theorem test_softwareReset_X1 : events (.softwareReset 1) (bench .writing [7, 8, 9]) =
      bracketEvents 0 [0x66] [7] ++ [.delay X.tSrstSettle] ++ bracketEvents 0 [0x99] [8] ++ bracketEvents 0 [0xB7] [9] ∧
    handle (.softwareReset 1) 1 (bench .writing []) = bound 0 micron .standby := by decide
/-- X4: no density, width 3, the vendor's reset opcodes, no 4-byte bracket. -/
theorem test_softwareReset_X4 :
    events (.softwareReset 1) (benchOf (bound 0 noDensity .standby) (Handle.unbound X) (Handle.unbound X) [7, 8]) =
      bracketEvents 0 [0x66] [7] ++ [.delay X.tSrstSettle] ++ bracketEvents 0 [0x99] [8] := by decide
/-- X6: increasing handle index, not line. -/
theorem test_hardwareReset_X6 :
    events (.hardwareReset 1) (benchOf (bound 0 micron .erasing) (bound 2 micron .standby) (bound 1 micron .writing) [7, 8, 9]) =
      [.resetLine false, .delay X.tHrstHold, .resetLine true, .delay X.tHrstSettle] ++
        bracketEvents 0 [0xB7] [7] ++ bracketEvents 2 [0xB7] [8] ++ bracketEvents 1 [0xB7] [9] := by decide
/-- X5: the other handle goes to Standby too. -/
theorem test_hardwareReset_X5 : handle (.hardwareReset 2) 1 (bench .erasing [7]) = bound 0 micron .standby := by decide
/-- PR1 step 1. -/
theorem test_bindDevice_PR1 : events (.bindDevice 3 2) (bench .standby [0, 0x20, 0xBA, 0x19, 0]) =
      bracketEvents 2 [0x9F, 0, 0, 0] [0, 0x20, 0xBA, 0x19] ++ bracketEvents 2 [0xB7] [0] ∧
    handle (.bindDevice 3 2) 3 (bench .standby [0, 0x20, 0xBA, 0x19, 0]) = bound 2 micron .standby := by decide
/-- B2. -/
theorem test_bindDevice_B2 : response (.bindDevice 3 0) (bench .standby []) = some ⟨.invalidRequest, .nothing⟩ ∧
    events (.bindDevice 3 0) (bench .standby []) = [] := by decide
/-- H7, H8. -/
theorem test_reserved : response (.reservedAB 1 0) (bench .standby []) = some ⟨.invalidRequest, .nothing⟩ ∧
    response (.reservedCF 3 3) (bench .standby []) = some ⟨.invalidRequest, .nothing⟩ := by decide
/-- R106 with registry X, one bracket each. -/
theorem test_bRdid : events (.bRdid 1) (bench .standby [1, 2, 3, 4]) = bracketEvents 0 [0x9F, 0, 0, 0] [1, 2, 3, 4] := by
  decide
theorem test_bEid : events (.bEid 2) (bench .standby [1, 2, 3, 4, 5]) =
    bracketEvents 1 [0xAB, 0, 0, 0, 0] [1, 2, 3, 4, 5] := by decide
theorem test_bRdsr : events (.bRdsr 1) (bench .standby [1, 2]) = bracketEvents 0 [0x05, 0] [1, 2] := by decide
theorem test_bRdsr2 : events (.bRdsr2 2) (bench .standby [1, 2]) = bracketEvents 1 [0x2B, 0] [1, 2] := by decide
theorem test_bWren : events (.bWren 1) (bench .standby [1]) = bracketEvents 0 [0x06] [1] := by decide
theorem test_bPp : events (.bPp 2 0x012300 [0x55]) (bench .standby [1, 2, 3, 4, 5]) =
    bracketEvents 1 [0x02, 0x01, 0x23, 0x00, 0x55] [1, 2, 3, 4, 5] := by decide
theorem test_bCe : events (.bCe 1) (bench .standby [1]) = bracketEvents 0 [0xC7] [1] := by decide
theorem test_bBe : events (.bBe 2 0x012000) (bench .standby [1, 2, 3, 4]) =
    bracketEvents 1 [0xD8, 0x01, 0x20, 0x00] [1, 2, 3, 4] := by decide
theorem test_bRead : events (.bRead 1 0x01000000 1) (bench .standby [1, 2, 3, 4, 5, 0x7E]) =
    bracketEvents 0 [0x13, 0x01, 0x00, 0x00, 0x00, 0x00] [1, 2, 3, 4, 5, 0x7E] := by decide
theorem test_bRsten : events (.bRsten 1) (bench .standby [1]) = bracketEvents 0 [0x66] [1] := by decide
theorem test_bRst : events (.bRst 1) (bench .standby [1]) = bracketEvents 0 [0x99] [1] := by decide
theorem test_bEn4b : events (.bEn4b 1) (bench .standby [1]) = bracketEvents 0 [0xB7] [1] := by decide
/-- R280: the reset input, in mid-write. -/
theorem test_blockReset : (blockReset (bench .writing [1])).handles = List.replicate 3 (Handle.unbound X) ∧
    (blockReset (bench .writing [1])).events = [.wpDeasserted] := by decide
/-- Log 10: a bus format for an unbound handle faults; here handle 3 and the index 4 outside the bank. -/
theorem test_bus_unbound : (validHandle (bench .standby []) 3 || validHandle (bench .standby []) 4) = false := by decide
/-- H2 at reset, where every handle is unbound. -/
theorem test_step_H2 : (after (step (State.reset.withFetchWord 8 0x10))).responses = [⟨.invalidRequest, .nothing⟩] := by
  decide

/-! Witnesses. -/

theorem legal_micron : ProfileLegal X micron := ⟨0x20, 0xBA, 0x19, rfl⟩
theorem legal_macronix : ProfileLegal X macronix := ⟨0xC2, 0x17, 0x18, rfl⟩
theorem legal_unknown : ProfileLegal X unknown := ⟨0xEF, 0x40, 0x18, rfl⟩

/-- A bench of sound handles, whose lines differ, meets the invariant. -/
theorem bench_inv (h1 h2 h3 : Handle) (bytes : List Byte) (i1 : h1.bound = true → HandleInv X h1)
    (i2 : h2.bound = true → HandleInv X h2) (i3 : h3.bound = true → HandleInv X h3)
    (hl : (boundLines [h1, h2, h3]).Nodup) : (benchOf h1 h2 h3 bytes).Inv := by
  refine ⟨test_wf_X, rfl, rfl, rfl, rfl, rfl, ?_, hl, rfl⟩
  intro h hh
  rcases List.mem_cons.mp hh with rfl | hh
  · exact i1
  rcases List.mem_cons.mp hh with rfl | hh
  · exact i2
  rw [List.mem_singleton.mp hh]
  exact i3

theorem bound_inv (l : Nat) (p : Profile) (m : Mode) (hl : l < 3) (hp : ProfileLegal X p)
    (hm : m = .standby ∨ m = .writing ∨ m = .erasing) : HandleInv X (bound l p m) := ⟨hl, hp, hm, fun _ => rfl⟩

theorem inv_bench (m : Mode) (hm : m = .standby ∨ m = .writing ∨ m = .erasing) (bytes : List Byte) :
    (bench m bytes).Inv :=
  bench_inv _ _ _ _ (fun _ => bound_inv 0 micron m (by decide) legal_micron hm)
    (fun _ => bound_inv 1 macronix .standby (by decide) legal_macronix (.inl rfl)) (fun h => by cases h)
    (by cases m <;> decide)

/-- The bench with an Unknown device as handle 1. -/
theorem inv_unknown (bytes : List Byte) :
    (benchOf (bound 0 unknown .standby) (Handle.unbound X) (Handle.unbound X) bytes).Inv :=
  bench_inv _ _ _ _ (fun _ => bound_inv 0 unknown .standby (by decide) legal_unknown (.inl rfl)) (fun h => by cases h)
    (fun h => by cases h) (by decide)

theorem admitted_bench (bytes : List Byte) : Admitted (bench .standby bytes) 1 :=
  ⟨inv_bench _ (.inl rfl) _, rfl, rfl, rfl⟩

theorem witness_ResetStateMeetsInvariant : X.wf = true := test_wf_X

theorem witness_BlockResetLeavesBlockIdle :
    ∃ rest, State.pending { bench .writing [1] with pending := [.blockReset, .request (req 0x10)] } = .blockReset :: rest :=
  ⟨_, rfl⟩

theorem witness_EveryStepKeepsInvariant : ∃ t, State.Inv { bench .writing [0, 0x03, 0, 0x10] with pending := [.request (req 0x15)] } ∧
    step { bench .writing [0, 0x03, 0, 0x10] with pending := [.request (req 0x15)] } = .next t :=
  let i := inv_bench .writing (.inr (.inl rfl)) [0, 0x03, 0, 0x10]
  ⟨_, ⟨i.cfgWf, i.bank, i.busIdle, i.csIdle, i.resetHigh, i.wpIdle, i.handle, i.lines, i.trace⟩, rfl⟩

theorem witness_EveryBracketIsOneOfTheFormats : ∃ s t : State, s.Inv ∧ step s = .next t ∧ t.events ≠ s.events :=
  let i := inv_bench .writing (.inr (.inl rfl)) [0, 0x03, 0, 0x10]
  ⟨{ bench .writing [0, 0x03, 0, 0x10] with pending := [.request (req 0x15)] }, _,
    ⟨i.cfgWf, i.bank, i.busIdle, i.csIdle, i.resetHigh, i.wpIdle, i.handle, i.lines, i.trace⟩, rfl, by decide⟩

theorem witness_NoInstructionWritesParametersOrWriteProtect :
    ∃ t, exec (.program 1 0 [] 0) (bench .standby []) = .next t := ⟨_, rfl⟩

theorem witness_StepRunsTheDecodedRequest :
    (∃ rest, State.pending { bench .standby [] with pending := [.request (req 0x10)] } = .request (req 0x10) :: rest) ∧
      (bench .standby []).pending = [] ∧ 0xFF < 256 := ⟨⟨_, rfl⟩, rfl, by decide⟩

theorem witness_DecodeReadsBackEncode : ∃ q, encode (.program 15 0xFFFFFFFF [0xDE] 0xFFFFFFFF) = some q := ⟨_, rfl⟩

theorem witness_EveryHeaderMatchesItsOneRow :
    Instr.isRequest (.reservedCF 3 3) = true ∧ (req 0x3F).hdr &&& 0x0C = 0x0C ∧
      Instr.headerRow (.reservedCF 3 3) = some (0x0C, 0x0C) := by decide

theorem witness_UnusedOperandsAreIgnored : ∃ q r : Request, q ≠ r ∧ q.hdr = r.hdr ∧ q.op = 0x1 ∧ q.addr = r.addr ∧
    q.len = r.len := ⟨req 0x21, { req 0x21 with sel := 0, budget := 0, pattern := 0, data := [] }, by decide⟩

theorem witness_BusBytesReadBack : opcodesDistinct X macronix = true ∧ opcodesDistinct X micron = true ∧
    (opc X macronix (BusCmd.read 0xFFFFFF 2).slot).isSome = true ∧ addrFits macronix.addrWidth 0xFFFFFF = true := by
  decide

theorem witness_AddressBytesMostSignificantFirst : (0xFFFFFF : Word).toNat < 2 ^ 24 ∧
    (0xFFFFFFFF : Word).toNat < 2 ^ (8 * widthBytes .four) := by decide

theorem witness_OpcodesFixedByVendorAndWidth : noDensity ≠ unknown ∧
    (resolve X 0x20 0 0x19).1 ≠ micron ∧ (resolve X 0x20 0 0x19).1.vendor = micron.vendor ∧
      (resolve X 0x20 0 0x19).1.addrWidth = micron.addrWidth := by decide

theorem witness_WellFormedRegistryDefinesEveryOpcode : X.wf = true ∧ ProfileLegal X micron ∧ operable micron = true ∧
    micron.layout.usesSec = true ∧ micron.addrWidth = .four ∧ ProfileLegal X unknown ∧ unknown.vendor = .unknown :=
  ⟨test_wf_X, legal_micron, by decide, by decide, by decide, legal_unknown, by decide⟩

theorem witness_ProfileGeometryIsSound : X.wf = true ∧ ProfileLegal X micron ∧ operable micron = true ∧
    2 ^ 24 < micron.density.toNat ∧ ProfileLegal X unknown ∧ operable unknown = false :=
  ⟨test_wf_X, legal_micron, by decide, by decide, legal_unknown, by decide⟩

theorem witness_UnlistedManufacturerYieldsUnknownProfile : vendorOf X 0xEF = .unknown := by decide

theorem witness_LookupsAreIndependent : vendorOf X 0x20 ≠ .unknown ∧ (densOf X 0x20 0x19).isSome = true ∧
    densOf X 0x20 0x55 = none ∧ partOf X 0x20 0xBA ≠ none := by decide

theorem witness_StatusDecoderReadsNamedBits :
    (genericLayout X).perr = none ∧ (genericLayout X).eerr = none ∧ layoutLI.perr = some ⟨.pri, 6⟩ ∧
    layoutLM.perr = some ⟨.sec, 4⟩ ∧ layoutLI.eerr = some ⟨.pri, 5⟩ ∧ layoutLM.eerr = some ⟨.sec, 5⟩ ∧
    (∀ i ∈ [0, 1], (0x03 : Byte).getLsbD i = (0xFF : Byte).getLsbD i) ∧
    ∀ i ∈ [4, 5], (0x10 : Byte).getLsbD i = (0xDF : Byte).getLsbD i := by decide

/-- One state for each clause of the order: a bad index, Unknown (also in Writing), Writing, and the two
misalignments (257 bytes, the address 0xFF). -/
theorem witness_ArrayOperationsRefusedInOrder :
    isArrayOp (.program 4 0 [] 0) = true ∧ ¬((4 : BitVec 4).toNat ≤ (bench .standby []).cfg.numHandles) ∧
    validHandle (benchOf (bound 0 unknown .writing) (Handle.unbound X) (Handle.unbound X) []) 1 = true ∧
    unknown.vendor = .unknown ∧ validHandle (bench .writing []) 1 = true ∧ operable micron = true ∧
    (State.handle (bench .writing []) 1).mode ≠ .standby ∧ (State.handle (bench .standby []) 1).mode = .standby ∧
    micron.pageSize.toNat < 257 ∧
    0 < micron.pageSize.toNat ∧ (0xFF : Word).toNat % micron.pageSize.toNat ≠ 0 := by decide

/-- H7 (reserved), H5 (index 0) and H6 (index 4 with three handles). -/
theorem witness_InvalidRequestsAnswerInvalidRequest : 10 ≤ (req 0x1A).hdr.toNat % 16 ∧ (req 0x05).hdr.toNat / 16 = 0 ∧
    (bench .standby []).cfg.numHandles < (req 0x45).hdr.toNat / 16 := by decide

theorem witness_RefusalsAreExact : ∃ t, exec (.read 1 0 1) (bench .writing []) = .next t ∧
    t.responses = (bench .writing []).responses ++ [⟨.notReady, .nothing⟩] := ⟨_, rfl, by decide⟩

theorem witness_EveryRequestGetsOneFittingResponse : Instr.isRequest (.program 1 0 [] 0) = true := by decide

theorem witness_IdentifyStoresTheResolvedProfile : (bench .writing []).Inv ∧ validHandle (bench .writing []) 1 = true ∧
    validHandle (bench .writing []) 0 = false ∧ validHandle (bench .writing []) 3 = false :=
  ⟨inv_bench _ (.inr (.inl rfl)) _, by decide⟩

/-- Each ground of refusal at its boundary, and an admitted creation. -/
theorem witness_BindCreatesTheHandle : (bench .standby []).Inv ∧
    ¬(1 ≤ (0 : BitVec 4).toNat) ∧ ¬((4 : BitVec 4).toNat ≤ (bench .standby []).cfg.numHandles) ∧
    (bench .standby []).cfg.numSelect ≤ (3 : Byte).toNat ∧
    (validHandle (bench .standby []) 2 = true ∧ (State.handle (bench .standby []) 2).selectLine = (1 : Byte).toNat) ∧
    bindRefused (bench .standby []) 3 2 = false ∧ bindRefused (bench .standby []) 1 0 = false :=
  ⟨inv_bench _ (.inl rfl) _, by decide⟩

theorem witness_ReadReturnsTheBytesOfOneBracket : Admitted (bench .standby [0]) 1 := admitted_bench _

theorem witness_ReadVerifyCountsMismatches : Admitted (bench .standby [0]) 1 ∧ inRange micron 0x01FFFFFF 1 = true ∧
    inRange micron 0x01FFFFFF 2 = false := ⟨admitted_bench _, by decide⟩

/-- W2 (idle at the first status read of a budget of 1), W3 (busy at it), and the budget 0. -/
theorem witness_ProgramIssuesItsCommandAndPolls : Admitted (bench .standby [0, 0, 0, 0, 0, 0, 0, 0x00, 0, 0]) 1 ∧
    ([] : List Byte).length ≤ micron.pageSize.toNat ∧ (0x100 : Word).toNat % micron.pageSize.toNat = 0 ∧
    ((bench .standby [0, 0, 0, 0, 0, 0, 0, 0x00, 0, 0]).pollFlags 6 micron 0).busy = false ∧
    ((bench .standby [0, 0, 0, 0, 0, 0, 0, 0x01, 0, 0]).pollFlags 6 micron 0).busy = true ∧
    ∀ j < (0 : Word).toNat, ((bench .standby []).pollFlags 6 micron j).busy = true :=
  ⟨admitted_bench _, by decide, by decide, by decide, by decide, fun j hj => absurd hj (Nat.not_lt_zero j)⟩

theorem witness_EraseChipIssuesItsCommandAndPolls : Admitted (bench .standby [0, 0, 0, 0x01, 0, 0, 0, 0x00, 0, 0]) 1 ∧
    ((bench .standby [0, 0, 0, 0x01, 0, 0, 0, 0x00, 0, 0]).pollFlags 2 micron 0).busy = true ∧
    ((bench .standby [0, 0, 0, 0x01, 0, 0, 0, 0x00, 0, 0]).pollFlags 2 micron 1).busy = false :=
  ⟨admitted_bench _, by decide, by decide⟩

/-- Busy at the first status read (a budget of 1 times out), idle at the second (a budget of 2 does not), idle at once,
and the budget 0. -/
theorem witness_EraseBlockIssuesItsCommandAndPolls :
    Admitted (bench .standby [0, 0, 0, 0, 0, 0, 0, 0x01, 0, 0, 0, 0x00, 0, 0]) 1 ∧
    ((bench .standby [0, 0, 0, 0, 0, 0, 0, 0x01, 0, 0, 0, 0x00, 0, 0]).pollFlags 6 micron 0).busy = true ∧
    ((bench .standby [0, 0, 0, 0, 0, 0, 0, 0x01, 0, 0, 0, 0x00, 0, 0]).pollFlags 6 micron 1).busy = false ∧
    ((bench .standby [0, 0, 0, 0, 0, 0, 0, 0x00, 0, 0]).pollFlags 6 micron 0).busy = false ∧
    ∀ j < (0 : Word).toNat, ((bench .standby []).pollFlags 6 micron j).busy = true :=
  ⟨admitted_bench _, by decide, by decide, by decide, fun j hj => absurd hj (Nat.not_lt_zero j)⟩

theorem witness_ReadStatusWritesSnapshotAndMode : (bench .writing [0, 0, 0, 0]).Inv ∧
    validHandle (bench .writing [0, 0, 0, 0]) 1 = true ∧ validHandle (bench .writing [0, 0, 0, 0]) 4 = false :=
  ⟨inv_bench _ (.inr (.inl rfl)) _, by decide⟩

theorem witness_UnresolvedStatusReadDegrades :
    (benchOf (bound 0 unknown .standby) (Handle.unbound X) (Handle.unbound X) [0, 0xFF]).Inv ∧
    validHandle (benchOf (bound 0 unknown .standby) (Handle.unbound X) (Handle.unbound X) [0, 0xFF]) 1 = true ∧
    operable (State.handle (benchOf (bound 0 unknown .standby) (Handle.unbound X) (Handle.unbound X) [0, 0xFF]) 1).profile = false :=
  ⟨inv_unknown _, by decide, by decide⟩

theorem witness_RepeatedStatusReadIsIdempotent : ∃ t u, (bench .writing [9, 0, 9, 0x20, 9, 0, 9, 0x20]).Inv ∧
    exec (.readStatus 1) (bench .writing [9, 0, 9, 0x20, 9, 0, 9, 0x20]) = .next t ∧ exec (.readStatus 1) t = .next u ∧
    ∀ i < statusLen X micron, (bench .writing [9, 0, 9, 0x20, 9, 0, 9, 0x20]).answer (statusLen X micron + i) =
      (bench .writing [9, 0, 9, 0x20, 9, 0, 9, 0x20]).answer i :=
  ⟨_, _, inv_bench _ (.inr (.inl rfl)) _, rfl, rfl, by decide⟩

theorem witness_SoftwareResetSequence : (bench .writing []).Inv ∧ validHandle (bench .writing []) 1 = true ∧
    validHandle (bench .writing []) 3 = false := ⟨inv_bench _ (.inr (.inl rfl)) _, by decide⟩

theorem witness_HardwareResetSequence : (bench .erasing []).Inv ∧ validHandle (bench .erasing []) 2 = true ∧
    validHandle (bench .erasing []) 3 = false := ⟨inv_bench _ (.inr (.inr rfl)) _, by decide⟩

theorem witness_BusFormatsSendTheirBytes : (bench .standby []).Inv ∧ validHandle (bench .standby []) 2 = true :=
  ⟨inv_bench _ (.inl rfl) _, by decide⟩

theorem witness_BusFormatOfUnboundHandleFaults : validHandle (bench .standby []) 3 = false ∧
    validHandle (bench .standby []) 0 = false := by decide

/-- Each field written by one of its writers. -/
theorem witness_HandleFieldsHaveTheirWriters :
    (handle (.bindDevice 3 2) 3 (bench .standby [0, 0x20, 0xBA, 0x19, 0])).bound ≠ (State.handle (bench .standby []) 3).bound ∧
    (handle (.bindDevice 1 2) 1 (bench .standby [0, 0x20, 0xBA, 0x19, 0])).selectLine ≠ (State.handle (bench .standby []) 1).selectLine ∧
    (handle (.identify 1) 1 (bench .standby [0, 0xEF, 0x40, 0x18])).profile ≠ (State.handle (bench .standby []) 1).profile ∧
    (handle (.readStatus 1) 1 (bench .standby [0, 1, 0, 0])).snap ≠ (State.handle (bench .standby []) 1).snap ∧
    (handle (.readVerify 1 0 1 0) 1 (bench .standby [0, 0, 0, 0, 0, 1])).mismatch ≠ (State.handle (bench .standby []) 1).mismatch ∧
    (handle (.eraseChip 1 0) 1 (bench .standby [0, 0])).mode ≠ (State.handle (bench .standby []) 1).mode := by decide

theorem witness_OtherHandlesAreUntouched : ∃ t, exec (.eraseChip 1 0) (bench .standby []) = .next t ∧
    (2 : BitVec 4) ≠ Instr.index (.eraseChip 1 0) := ⟨_, rfl, by decide⟩

/-- The three kinds of transition. -/
theorem witness_ModeTransitionsAreTheRules : (bench .standby []).Inv ∧ (bench .writing []).Inv ∧
    validHandle (bench .standby []) 1 = true ∧ validHandle (bench .writing []) 1 = true ∧
    (handle (.program 1 0 [] 0) 1 (bench .standby [])).mode = .writing ∧
    (handle (.eraseBlock 1 0 0) 1 (bench .standby [])).mode = .erasing ∧
    (handle (.softwareReset 1) 1 (bench .writing [])).mode = .standby :=
  ⟨inv_bench _ (.inl rfl) _, inv_bench _ (.inr (.inl rfl)) _, by decide⟩

theorem witness_OperationsAreBounded : ∃ t, (bench .standby []).handles.length = (bench .standby []).cfg.numHandles ∧
    exec (.program 1 0 [] 9) (bench .standby []) = .next t := ⟨_, rfl, rfl⟩

theorem witness_SnapshotsNeverDecide : ∃ s r : State, s ≠ r ∧ s.forgetSnaps = r.forgetSnaps :=
  ⟨bench .writing [], benchOf { bound 0 micron .writing with snap := ⟨true, ⟨true, true, true, true⟩⟩ }
    (bound 1 macronix .standby) (Handle.unbound X) [], by decide⟩

theorem witness_PartNumbersNeverDecide : ∃ s r : State, s ≠ r ∧ s.forgetParts = r.forgetParts :=
  ⟨bench .writing [], benchOf { bound 0 micron .writing with profile := { micron with partNumber := none } }
    (bound 1 macronix .standby) (Handle.unbound X) [], by decide⟩

end Sys2Proof.Tests
end

/-! PROOFS. What an instruction that answers a next state can have done, said once (`exec_next_cases`), and the frame
that follows from it. -/

namespace Sys2Proof.Machine

open Sys2Proof

/-- A `Run` on handle `k` from `s` to `t` of at most `b` brackets and `d` delays. -/
def RunWithin (k : BitVec 4) (b d : Nat) (s t : State) : Prop :=
  ∃ evs, Run k s t evs ∧ brackets evs ≤ b ∧ delays evs ≤ d

/-- From `s` to `t` an operation on handle `k` made at most `b` brackets and `d` delays and then ended with one response
(R12, R163). -/
def Answers (k : BitVec 4) (b d : Nat) (s t : State) : Prop :=
  ∃ u c v, RunWithin k b d s u ∧ t = respond c v u

/-- A hardware reset past its gate: at most one bracket per slot of the bank and two delays, then every bound handle to
Standby and the response (R205). -/
def ResetsAll (k : BitVec 4) (s t : State) : Prop :=
  ∃ u, RunWithin k s.handles.length 2 s u ∧ t = respond .ok .nothing (standbyAll u)

section RunWithin

variable {k : BitVec 4} {s t u : State} {b d b' d' : Nat}

theorem Run.within {evs : List Event} (r : Run k s t evs) (hb : brackets evs ≤ b := by simp)
    (hd : delays evs ≤ d := by simp) : RunWithin k b d s t := ⟨evs, r, hb, hd⟩

theorem RunWithin.trans (h : RunWithin k b d s t) (h' : RunWithin k b' d' t u) :
    RunWithin k (b + b') (d + d') s u := by
  obtain ⟨e, r, hb, hd⟩ := h
  obtain ⟨e', r', hb', hd'⟩ := h'
  exact (r.trans r').within (by rw [brackets_append]; omega) (by rw [delays_append]; omega)

/-- A response ends a run as an answer within any larger bounds. -/
theorem RunWithin.answers (h : RunWithin k b d s u) (c : Code) (v : Values) (hb : b ≤ b' := by omega)
    (hd : d ≤ d' := by omega) : Answers k b' d' s (respond c v u) := by
  obtain ⟨e, r, hbe, hde⟩ := h
  exact ⟨u, c, v, r.within (hbe.trans hb) (hde.trans hd), rfl⟩

end RunWithin

/-! The shared operations. -/

section Shared

variable (k : BitVec 4) (s : State)

theorem setHandle_within (h : Handle) : RunWithin k 0 0 s (s.setHandle k h) := (run_setHandle s k h).within

theorem setMode_within (m : Mode) : RunWithin k 0 0 s (s.setMode k m) := setHandle_within k s _

theorem emitFor_within (cmd : BusCmd) : RunWithin k 1 0 s (emitFor k cmd s).2 := (run_emitFor cmd s k).within

theorem delay_within (t : Nat) : RunWithin k 0 1 s (delay t s) := (run_delay k t s).within

theorem driveReset_within (high : Bool) : RunWithin k 0 0 s (driveReset high s) := (run_driveReset k high s).within

theorem statusRead_within : RunWithin k 2 0 s (statusRead k s).2 := by
  obtain ⟨evs, r, hb, hd, -⟩ := run_statusRead k s
  exact r.within hb hd.le

theorem pollLoop_within (n : Nat) (first : Bool) : RunWithin k (2 * n) n s (pollLoop k n first s).2 := by
  obtain ⟨evs, r, hb, hd, -⟩ := run_pollLoop k n first s
  exact r.within hb hd

theorem identifyBus_within (l : Nat) (p : Profile) : RunWithin k 2 0 s (identifyBus l p s).2 := by
  obtain ⟨evs, r, hb, hd, -⟩ := run_identifyBus k l p s
  exact r.within hb hd.le

theorem enable4b_within : RunWithin k 1 0 s (enable4b k s) := by
  obtain ⟨evs, r, hb, hd, -⟩ := run_enable4b k s
  exact r.within hb hd.le

theorem reenableAll_within (hs : List Handle) : RunWithin k hs.length 0 s (reenableAll hs s) := by
  obtain ⟨evs, r, hb, hd, -⟩ := run_reenableAll k hs s
  exact r.within hb hd.le

end Shared

/-! The operations, past their gates: one link per step of each (R131, R133, R171, R181, R191, R195, R201, R205). -/

section Operations

variable (k : BitVec 4) (s : State)

/-- A refused request ends at once (R12, R252). -/
theorem raise_answers (c : Code) (b d : Nat) : Answers k b d s (raise c s) :=
  (Run.refl k s).within.answers c .nothing (Nat.zero_le b) (Nat.zero_le d)

theorem runErase_answers (cmd : BusCmd) (budget : Word) :
    Answers k (2 + 2 * budget.toNat) budget.toNat s (runErase k cmd budget s) :=
  (setMode_within k s .erasing).trans (emitFor_within k _ .wren) |>.trans (emitFor_within k _ cmd)
    |>.trans (pollLoop_within k _ budget.toNat true) |>.answers _ _

theorem runProgram_answers (addr : Word) (data : List Byte) (budget : Word) :
    Answers k (2 + 2 * budget.toNat) budget.toNat s (runProgram k addr data budget s) :=
  (setMode_within k s .writing).trans (emitFor_within k _ .wren) |>.trans (emitFor_within k _ (.pp addr data))
    |>.trans (pollLoop_within k _ budget.toNat true) |>.answers _ _

theorem runRead_answers (addr len : Word) : Answers k 1 0 s (runRead k addr len s) :=
  (setMode_within k s .reading).trans (emitFor_within k _ (.read addr len)) |>.trans (setMode_within k _ .standby)
    |>.answers _ _

theorem runReadVerify_answers (addr len : Word) (pattern : Byte) :
    Answers k 1 0 s (runReadVerify k addr len pattern s) :=
  (setMode_within k s .reading).trans (setHandle_within k _ _) |>.trans (emitFor_within k _ (.read addr len))
    |>.trans (setHandle_within k _ _) |>.trans (setMode_within k _ .standby) |>.answers _ _

theorem runIdentify_answers : Answers k 2 0 s (runIdentify k s) :=
  (identifyBus_within k s _ _).trans (setHandle_within k _ _) |>.answers _ _

theorem runBind_answers (sel : Byte) : Answers k 3 0 s (runBind k sel s) :=
  (setHandle_within k s _).trans (identifyBus_within k _ sel.toNat _) |>.trans (setHandle_within k _ _)
    |>.trans (enable4b_within k _) |>.answers _ _

theorem readStatus_answers : Answers k 2 0 s (respond .ok (snapshotOf k (statusRead k s).2) (statusRead k s).2) :=
  (statusRead_within k s).answers _ _

theorem runSoftwareReset_answers : Answers k 3 1 s (runSoftwareReset k s) :=
  (setMode_within k s .softwareReset).trans (emitFor_within k _ .rsten) |>.trans (delay_within k _ _)
    |>.trans (emitFor_within k _ .rst) |>.trans (enable4b_within k _) |>.trans (setMode_within k _ .standby)
    |>.answers _ _

theorem runHardwareReset_resetsAll : ResetsAll k s (runHardwareReset k s) := by
  obtain ⟨_, r, hb, hd⟩ := (setMode_within k s .hardwareReset).trans (driveReset_within k _ false)
    |>.trans (delay_within k _ s.cfg.tHrstHold) |>.trans (driveReset_within k _ true)
    |>.trans (delay_within k _ s.cfg.tHrstSettle) |>.trans (reenableAll_within k _ (s.setMode k .hardwareReset).handles)
  refine ⟨_, r.within ?_ hd, ?_⟩
  · simpa [State.setMode] using hb
  · simp [runHardwareReset, delay, driveReset, State.setMode]

end Operations

/-! The instructions. -/

/-- A row of format BUS is the bracket of its format (R106). -/
theorem exec_of_busCmd {i : Instr} {cmd : BusCmd} (hc : i.busCmd = some cmd) (s : State) :
    exec i s = busFormat i.index cmd s := by
  cases i <;> cases hc <;> rfl

theorem busFormat_next {k : BitVec 4} {cmd : BusCmd} {s t : State} (h : busFormat k cmd s = .next t) :
    t = (emitFor k cmd s).2 := by
  unfold busFormat at h
  split at h
  · exact (Host.Outcome.next.inj h).symm
  · cases h

/-- A host request answers within the bounds of its operands, unless it is an admitted hardware_reset. -/
theorem exec_request_cases {i : Instr} {s t : State} (hc : i.busCmd = none) (h : exec i s = .next t) :
    Answers i.index (bracketBound s.cfg i) (delayBound i) s t ∨ ∃ k, i = .hardwareReset k ∧ ResetsAll k s t := by
  cases i with
  | identify k => cases h; left; split; exacts [runIdentify_answers k s, raise_answers k s _ _ _]
  | read k addr len => cases h; left; split; exacts [raise_answers k s _ _ _, runRead_answers k s addr len]
  | program k addr data budget =>
    cases h; left; split; exacts [raise_answers k s _ _ _, runProgram_answers k s addr data budget]
  | eraseChip k budget => cases h; left; split; exacts [raise_answers k s _ _ _, runErase_answers k s .ce budget]
  | eraseBlock k addr budget =>
    cases h; left; split; exacts [raise_answers k s _ _ _, runErase_answers k s (.be addr) budget]
  | readStatus k => cases h; left; split; exacts [readStatus_answers k s, raise_answers k s _ _ _]
  | softwareReset k => cases h; left; split; exacts [runSoftwareReset_answers k s, raise_answers k s _ _ _]
  | hardwareReset k =>
    cases h; split; exacts [.inr ⟨k, rfl, runHardwareReset_resetsAll k s⟩, .inl (raise_answers k s _ _ _)]
  | bindDevice k sel => cases h; left; split; exacts [raise_answers k s _ _ _, runBind_answers k s sel]
  | readVerify k addr len pattern =>
    cases h; left; split; exacts [raise_answers k s _ _ _, runReadVerify_answers k s addr len pattern]
  | reservedAB k x => cases h; exact .inl (raise_answers k s _ _ _)
  | reservedCF k x => cases h; exact .inl (raise_answers k s _ _ _)
  | _ => cases hc

/-- What an instruction that answers a next state did: a host request answered, a hardware_reset was admitted, or a bus
format sent its one bracket. -/
theorem exec_next_cases {i : Instr} {s t : State} (h : exec i s = .next t) :
    Answers i.index (bracketBound s.cfg i) (delayBound i) s t ∨ (∃ k, i = .hardwareReset k ∧ ResetsAll k s t) ∨
      ∃ cmd, i.busCmd = some cmd ∧ t = (emitFor i.index cmd s).2 := by
  cases hc : i.busCmd with
  | some cmd => exact .inr (.inr ⟨cmd, rfl, busFormat_next (exec_of_busCmd hc s ▸ h)⟩)
  | none => exact or_assoc.mp (.inl (exec_request_cases hc h))

/-- Settles O4: every instruction makes a `Run`, which keeps all five fields but for the events it appends, and then at
most appends a response and sends handles to Standby. -/
theorem noInstructionWritesParametersOrWriteProtect : Obligations.NoInstructionWritesParametersOrWriteProtect := by
  intro i s t h
  obtain ⟨u, c, v, ⟨evs, r, -⟩, rfl⟩ | ⟨k, -, u, ⟨evs, r, -⟩, rfl⟩ | ⟨cmd, -, rfl⟩ := exec_next_cases h
  · exact ⟨r.cfg, r.wp, r.pending, ⟨evs, r.events⟩, [⟨c, v⟩], by simp [r.responses]⟩
  · exact ⟨r.cfg, r.wp, r.pending, ⟨evs, r.events⟩, [⟨.ok, .nothing⟩], by simp [standbyAll, r.responses]⟩
  · have r := run_emitFor cmd s i.index
    exact ⟨r.cfg, r.wp, r.pending, ⟨_, r.events⟩, [], by simp [r.responses]⟩

end Sys2Proof.Machine

/-! PROOFS. The invariant between operations (`State.Inv`) under every step: what keeps the bus discipline, what keeps
the bank sound, and the invariant inside an operation, `Mid`, from which each operation ends in `State.Inv`. -/

namespace Sys2Proof.Machine

open Sys2Proof

/-! The bus discipline of what the shared operations emit (R11, R41). -/

theorem busPhase_append {e f : List Event} (he : busPhase e = .idle) (hf : busPhase f = .idle) :
    busPhase (e ++ f) = .idle := by
  rw [busPhase, List.foldl_append]
  rw [busPhase] at he
  rw [he]
  exact hf

theorem foldl_busStep_xfers (l : Nat) (out ins : List Byte) :
    (List.zipWith Event.xfer out ins).foldl busStep (.moving l) = .moving l := by
  induction out generalizing ins with
  | nil => rfl
  | cons o out ih =>
    cases ins with
    | nil => rfl
    | cons i ins => exact ih ins

/-- A bracket that exchanges at least one byte keeps the discipline and leaves the bus idle. -/
theorem busPhase_bracketAt (s : State) (i l : Nat) {out : List Byte} (ho : out ≠ []) :
    busPhase (s.bracketAt i l out) = .idle := by
  obtain ⟨o, out, rfl⟩ := List.exists_cons_of_ne_nil ho
  obtain ⟨b, ins, hins⟩ := List.exists_cons_of_length_eq_add_one (answers_length s i (o :: out).length)
  rw [State.bracketAt, hins]
  simp [bracketEvents, busPhase, busStep, foldl_busStep_xfers]

/-- Every format sends its opcode first (R106). -/
theorem encodeBus_ne_nil (c : Config) (n : Nat) (p : Profile) (cmd : BusCmd) : encodeBus c n p cmd ≠ [] := by
  cases cmd <;> simp [encodeBus]

/-- On an idle bus a bracket of handle `k` is an exchange that keeps the discipline. -/
theorem emitFor_advances {s : State} (hq : s.Quiet) (k : BitVec 4) (cmd : BusCmd) :
    ∃ n e, busPhase e = .idle ∧ (emitFor k cmd s).2 = s.advance n e :=
  ⟨_, _, busPhase_bracketAt s _ _ (encodeBus_ne_nil _ _ _ _), congrArg Prod.snd (emit_eq _ _ cmd s hq)⟩

theorem busPhase_idEvents (s : State) (l : Nat) : busPhase (s.idEvents l) = .idle := by
  refine busPhase_append (busPhase_bracketAt s _ l (by simp)) ?_
  split
  · exact busPhase_bracketAt s _ l (by simp)
  · rfl

theorem busPhase_reenableEvents (s : State) (i : Nat) (hs : List Handle) : busPhase (s.reenableEvents i hs) = .idle := by
  induction hs generalizing i with
  | nil => rfl
  | cons h rest ih =>
    rw [State.reenableEvents]
    split
    · exact busPhase_append (busPhase_bracketAt s _ _ (by simp)) (ih _)
    · exact ih _

/-! The lines of the bound handles (R131). -/

/-- Only `bound` and `select_line` decide which lines are held. -/
theorem boundLines_congr {hs hs' : List Handle}
    (h : hs.map (fun x => (x.bound, x.selectLine)) = hs'.map fun x => (x.bound, x.selectLine)) :
    boundLines hs = boundLines hs' := by
  have key (l : List Handle) :
      boundLines l = ((l.map fun x => (x.bound, x.selectLine)).filter (·.1)).map (·.2) := by
    simp [boundLines, List.filter_map, Function.comp_def]
  rw [key, key, h]

theorem boundLines_setHandle (s : State) (k : BitVec 4) {h : Handle} (hb : h.bound = (s.handle k).bound)
    (hl : h.selectLine = (s.handle k).selectLine) : boundLines (s.setHandle k h).handles = boundLines s.handles := by
  apply boundLines_congr
  conv_rhs => rw [← setHandle_handle_self s k]
  unfold State.setHandle
  split
  · rfl
  · simp [List.map_set, hb, hl]

/-- A line that no other handle holds can be given to handle `k` (R131). -/
theorem boundLines_setHandle_nodup {s : State} {k : BitVec 4} {h : Handle} (hs : s.HasSlot k)
    (hn : (boundLines s.handles).Nodup) (ht : lineTaken s k h.selectLine = false) :
    (boundLines (s.setHandle k h).handles).Nodup := by
  obtain ⟨hk, hlt⟩ := hs
  have hother : boundLines (s.handles.eraseIdx (k.toNat - 1)) ⊆ boundLines s.handles ∧
      (boundLines (s.handles.eraseIdx (k.toNat - 1))).Nodup := by
    have hsub := ((s.handles.eraseIdx_sublist (k.toNat - 1)).filter (·.bound)).map (·.selectLine)
    exact ⟨hsub.subset, hn.sublist hsub⟩
  have hfree : h.selectLine ∉ boundLines (s.handles.eraseIdx (k.toNat - 1)) := by
    intro hmem
    obtain ⟨x, hx, hline⟩ := List.mem_map.mp hmem
    obtain ⟨hx, hbound⟩ := List.mem_filter.mp hx
    obtain ⟨j, hj, hne, rfl⟩ := List.mem_eraseIdx_iff_getElem.mp hx
    have := List.any_eq_false.mp ht (s.handles[j], j) (List.mem_zipIdx_iff_getElem?.mpr (by simp))
    simp [hbound, hline] at this
    omega
  rw [setHandle_handles s k h hk, List.set_eq_take_append_cons_drop, if_pos hlt]
  rw [List.eraseIdx_eq_take_drop_succ] at hother hfree
  cases hb : h.bound
  · simpa [boundLines, List.filter_cons, hb] using hother.2
  · simp only [boundLines, List.filter_append, List.filter_cons, hb, if_true, List.map_append, List.map_cons] at *
    exact List.nodup_middle.mpr (List.nodup_cons.mpr ⟨hfree, hother.2⟩)

/-! What keeps the invariant. -/

theorem setMode_handle_self {s : State} {k : BitVec 4} (hs : s.HasSlot k) (m : Mode) :
    (s.setMode k m).handle k = { s.handle k with mode := m } := handle_setHandle_self s k _ hs

section Inv

variable {s : State} {k : BitVec 4} {h : Handle}

theorem State.Inv.advance (hi : s.Inv) (n : Nat) {e : List Event} (he : busPhase e = .idle) : (s.advance n e).Inv :=
  { hi with trace := busPhase_append hi.trace he }

theorem State.Inv.respond (hi : s.Inv) (c : Code) (v : Values) : (respond c v s).Inv := { hi with }

theorem State.Inv.withPending (hi : s.Inv) (rest : List HostInput) : State.Inv { s with pending := rest } := { hi with }

/-- Another bank of the same size, sound and without a line held twice. -/
theorem State.Inv.withHandles (hi : s.Inv) {hs : List Handle} (hl : hs.length = s.handles.length)
    (hh : ∀ h ∈ hs, h.bound = true → HandleInv s.cfg h) (hn : (boundLines hs).Nodup) :
    State.Inv { s with handles := hs } :=
  { hi with bank := hl.trans hi.bank, handle := hh, lines := hn }

theorem State.Inv.setHandle (hi : s.Inv) (hh : HandleInv s.cfg h)
    (hn : (boundLines (s.setHandle k h).handles).Nodup) : (s.setHandle k h).Inv := by
  unfold State.setHandle at hn ⊢
  split at hn
  · rwa [if_pos ‹_›]
  · rw [if_neg ‹_›]
    refine hi.withHandles (by simp) (fun x hx hb => ?_) hn
    rcases List.mem_or_eq_of_mem_set hx with hx | rfl
    · exact hi.handle x hx hb
    · exact hh

/-- A write to handle `k` that leaves it bound or not, and on its line. -/
theorem State.Inv.updateHandle (hi : s.Inv) (hb : h.bound = (s.handle k).bound)
    (hl : h.selectLine = (s.handle k).selectLine) (hh : HandleInv s.cfg h) : (s.setHandle k h).Inv :=
  hi.setHandle hh (by rw [boundLines_setHandle s k hb hl]; exact hi.lines)

theorem State.Inv.handleInv (hi : s.Inv) (hv : validHandle s k = true) : HandleInv s.cfg (s.handle k) :=
  hi.handle _ (handle_mem s k (hi.hasSlot hv)) (validHandle_bound hv)

/-- Every bound handle in Standby: the modes of R31, whatever they were. -/
theorem State.Inv.standbyAll (hi : s.Inv) : (standbyAll s).Inv := by
  refine hi.withHandles (by simp) ?_ ?_
  · intro x hx hb
    obtain ⟨y, hy, rfl⟩ := List.mem_map.mp hx
    unfold Handle.toStandby at hb ⊢
    split at hb
    · rw [if_pos ‹_›]
      exact { hi.handle y hy ‹_› with mode := .inl rfl }
    · exact absurd hb ‹_›
  · rw [boundLines_congr (hs' := s.handles)]
    · exact hi.lines
    · rw [List.map_map]
      refine List.map_congr_left fun x _ => ?_
      simp only [Function.comp_apply, Handle.toStandby]
      split <;> rfl

end Inv

/-! The invariant inside an operation. -/

/-- The modes of a bound handle between operations (R31). -/
def Mode.Between (m : Mode) : Prop := m = .standby ∨ m = .writing ∨ m = .erasing

/-- Inside an operation on the bound handle `k`: but for its mode, which meets `M`, the state meets the invariant. -/
structure Mid (k : BitVec 4) (M : Mode → Prop) (s : State) : Prop where
  slot : s.HasSlot k
  bound : (s.handle k).bound = true
  mode : M (s.handle k).mode
  inv : (s.setMode k .standby).Inv

section Mid

variable {s : State} {k : BitVec 4} {M M' : Mode → Prop} {h : Handle}

theorem Mid.handleInv (hm : Mid k M s) : HandleInv s.cfg { s.handle k with mode := .standby } := by
  have hs : (s.setMode k .standby).HasSlot k := (setHandle_hasSlot s k _).mpr hm.slot
  have hk := setMode_handle_self hm.slot .standby
  have hc : (s.setMode k .standby).cfg = s.cfg := setHandle_cfg s k _
  have hinv := hm.inv.handle _ (handle_mem _ k hs) (by rw [hk]; exact hm.bound)
  rwa [hk, hc] at hinv

theorem Mid.quiet (hm : Mid k M s) : s.Quiet := by
  have hq := hm.inv.quiet
  exact ⟨by simpa [State.setMode] using hq.busSel, fun l => by simpa [State.setMode] using hq.lines l⟩

/-- A write to handle `k` that keeps it bound, on its line and sound. -/
theorem Mid.setHandle (hm : Mid k M s) (hb : h.bound = true) (hl : h.selectLine = (s.handle k).selectLine)
    (hh : HandleInv s.cfg { h with mode := .standby }) (hM : M' h.mode) : Mid k M' (s.setHandle k h) := by
  have hk : (s.setHandle k h).handle k = h := handle_setHandle_self s k h hm.slot
  refine ⟨(setHandle_hasSlot s k h).mpr hm.slot, by rw [hk]; exact hb, by rw [hk]; exact hM, ?_⟩
  have heq : (s.setHandle k h).setMode k .standby = (s.setMode k .standby).setHandle k { h with mode := .standby } := by
    simp [State.setMode, hk]
  rw [heq]
  have hks := setMode_handle_self hm.slot .standby
  exact hm.inv.updateHandle (by rw [hks]; exact hb.trans hm.bound.symm) (by rw [hks]; exact hl)
    (by simpa [State.setMode] using hh)

theorem Mid.setMode (hm : Mid k M s) {m : Mode} (hM : M' m) : Mid k M' (s.setMode k m) :=
  hm.setHandle hm.bound rfl hm.handleInv hM

/-- A transient mode (R31): from here on the mode may be any. -/
theorem Mid.enter (hm : Mid k M s) (m : Mode) : Mid k (fun _ => True) (s.setMode k m) := hm.setMode trivial

theorem Mid.setMismatch (hm : Mid k M s) (n : Word) : Mid k M (s.setMismatch k n) :=
  hm.setHandle hm.bound rfl { hm.handleInv with } hm.mode

theorem Mid.setSnap (hm : Mid k M s) (f : StatusFlags) : Mid k M (s.setSnap k f) :=
  hm.setHandle hm.bound rfl { hm.handleInv with snap := by intro h; cases h } hm.mode

theorem Mid.setProfile (hm : Mid k M s) {p : Profile} (hp : ProfileLegal s.cfg p) : Mid k M (s.setProfile k p) :=
  hm.setHandle hm.bound rfl { hm.handleInv with profile := hp } hm.mode

theorem Mid.advance (hm : Mid k M s) (n : Nat) {e : List Event} (he : busPhase e = .idle) : Mid k M (s.advance n e) :=
  ⟨hm.slot, hm.bound, hm.mode, by
    have := hm.inv.advance n he
    rwa [State.setMode, setHandle_advance] at this⟩

/-- The start of an operation on a valid handle. -/
theorem State.Inv.mid (hi : s.Inv) (hv : validHandle s k = true) : Mid k Mode.Between s where
  slot := hi.hasSlot hv
  bound := validHandle_bound hv
  mode := (hi.handleInv hv).mode
  inv := hi.updateHandle rfl rfl { hi.handleInv hv with mode := .inl rfl }

/-- The end of an operation: with a mode of R31 the invariant holds again. -/
theorem Mid.toInv (hm : Mid k Mode.Between s) : s.Inv := by
  have heq : (s.setMode k .standby).setHandle k (s.handle k) = s := by
    simp [State.setMode, setHandle_handle_self]
  have hks := setMode_handle_self hm.slot .standby
  rw [← heq]
  exact hm.inv.updateHandle (by rw [hks]) (by rw [hks])
    (by simpa [State.setMode] using { hm.handleInv with mode := hm.mode })

/-! The shared operations inside an operation. -/

theorem Mid.emitFor (hm : Mid k M s) (cmd : BusCmd) : Mid k M (emitFor k cmd s).2 := by
  obtain ⟨n, e, he, heq⟩ := emitFor_advances hm.quiet k cmd
  exact heq ▸ hm.advance n he

theorem Mid.delay (hm : Mid k M s) (t : Nat) : Mid k M (delay t s) :=
  hm.advance 0 (e := [.delay t]) rfl

theorem Mid.enable4b (hm : Mid k M s) : Mid k M (enable4b k s) := by
  unfold Machine.enable4b
  split
  · exact hm.emitFor .en4b
  · exact hm

theorem Mid.identifyBus (hm : Mid k M s) (l : Nat) (p : Profile) : Mid k M (identifyBus l p s).2 := by
  rw [identifyBus_eq l p s hm.quiet]
  exact hm.advance _ (busPhase_idEvents s l)

theorem Mid.statusBytes (hm : Mid k M s) : Mid k M (statusBytes k s).2 := by
  unfold Machine.statusBytes
  dsimp only
  split
  · exact (hm.emitFor .rdsr).emitFor .rdsr2
  · exact hm.emitFor .rdsr

/-- A status read leaves the mode or sets Standby (R227). -/
theorem Mid.statusRead (hm : Mid k M s) (hM : M .standby) : Mid k M (statusRead k s).2 := by
  have hsnap := hm.statusBytes.setSnap (Machine.statusRead k s).1
  refine hsnap.setMode ?_
  unfold modeAfterStatus
  split
  · exact hM
  · exact hsnap.mode

theorem Mid.pollLoop (hm : Mid k M s) (hM : M .standby) (n : Nat) (first : Bool) :
    Mid k M (pollLoop k n first s).2 := by
  induction n generalizing first s with
  | zero => exact hm
  | succ n ih =>
    have hstart : Mid k M (if first then s else pollDelay s) := by
      unfold pollDelay
      split
      · exact hm
      · split
        · exact hm.delay _
        · exact hm
    rw [Machine.pollLoop]
    generalize (if first then s else pollDelay s) = s₀ at hstart ⊢
    split
    · exact ih (hstart.statusRead hM) false
    · exact hstart.statusRead hM

end Mid

/-! The operations, past their gates. -/

section Operations

variable {s : State} {k : BitVec 4}

theorem poll_inv (hm : Mid k Mode.Between s) (budget : Word) : (poll k budget s).Inv :=
  (hm.pollLoop (.inl rfl) budget.toNat true).toInv.respond _ _

theorem runErase_inv (hm : Mid k Mode.Between s) (cmd : BusCmd) (budget : Word) : (runErase k cmd budget s).Inv :=
  poll_inv ((hm.setMode (.inr (.inr rfl))).emitFor .wren |>.emitFor cmd) budget

theorem runProgram_inv (hm : Mid k Mode.Between s) (addr : Word) (data : List Byte) (budget : Word) :
    (runProgram k addr data budget s).Inv :=
  poll_inv ((hm.setMode (.inr (.inl rfl))).emitFor .wren |>.emitFor (.pp addr data)) budget

theorem readStatus_inv (hm : Mid k Mode.Between s) :
    (respond .ok (snapshotOf k (statusRead k s).2) (statusRead k s).2).Inv :=
  (hm.statusRead (.inl rfl)).toInv.respond _ _

/-- An operation that passes through a transient mode ends in Standby (R31). -/
theorem Mid.end_standby {M : Mode → Prop} (hm : Mid k M s) (c : Code) (v : Values) :
    (respond c v (s.setMode k .standby)).Inv :=
  hm.inv.respond c v

theorem runRead_inv (hm : Mid k Mode.Between s) (addr len : Word) : (runRead k addr len s).Inv :=
  (hm.enter .reading).emitFor (.read addr len) |>.end_standby _ _

theorem runReadVerify_inv (hm : Mid k Mode.Between s) (addr len : Word) (pattern : Byte) :
    (runReadVerify k addr len pattern s).Inv :=
  (hm.enter .reading).setMismatch 0 |>.emitFor (.read addr len) |>.setMismatch _
    |>.end_standby _ _

theorem runSoftwareReset_inv (hm : Mid k Mode.Between s) : (runSoftwareReset k s).Inv :=
  (hm.enter .softwareReset).emitFor .rsten |>.delay _ |>.emitFor .rst |>.enable4b
    |>.end_standby _ _

theorem runIdentify_inv (hm : Mid k Mode.Between s) : (runIdentify k s).Inv := by
  have hc : ((identifyBus (s.handle k).selectLine (s.handle k).profile s).2).cfg = s.cfg := by
    rw [identifyBus_eq _ _ _ hm.quiet]; rfl
  exact ((hm.identifyBus _ _).setProfile (hc ▸ ⟨_, _, _, rfl⟩)).toInv.respond _ _

/-- Handle `k` goes to Standby with the others, whatever its mode was. -/
theorem standbyAll_setMode (hb : (s.handle k).bound = true) (m : Mode) : standbyAll (s.setMode k m) = standbyAll s := by
  conv_rhs => rw [← setHandle_handle_self s k]
  unfold State.setMode State.setHandle
  split
  · rfl
  · simp [standbyAll, List.map_set, Handle.toStandby, hb]

theorem Mid.standbyAll_inv {M : Mode → Prop} (hm : Mid k M s) : (standbyAll s).Inv :=
  standbyAll_setMode hm.bound .standby ▸ hm.inv.standbyAll

/-- The pulse on the hardware-reset line ends with the line high again (R205). -/
theorem Mid.pulse {M : Mode → Prop} (hm : Mid k M s) (t : Nat) :
    Mid k M (driveReset true (Machine.delay t (driveReset false s))) := by
  have hhigh : s.resetHigh = true := by simpa [State.setMode] using hm.inv.resetHigh
  have heq : driveReset true (Machine.delay t (driveReset false s)) =
      s.advance 0 [.resetLine false, .delay t, .resetLine true] := by
    simp [driveReset, Machine.delay, State.advance, hhigh]
  rw [heq]
  exact hm.advance 0 rfl

theorem Mid.reenableAll {M : Mode → Prop} (hm : Mid k M s) (hs : List Handle) : Mid k M (reenableAll hs s) := by
  rw [reenableAll_eq hs s hm.quiet]
  exact hm.advance _ (busPhase_reenableEvents s 0 hs)

theorem runHardwareReset_inv (hm : Mid k Mode.Between s) : (runHardwareReset k s).Inv :=
  (hm.enter .hardwareReset).pulse _ |>.delay _ |>.reenableAll _ |>.standbyAll_inv
    |>.respond .ok .nothing

theorem bindRefused_eq_false {sel : Byte} (hr : bindRefused s k sel = false) :
    validIndex s k = true ∧ sel.toNat < s.cfg.numSelect ∧ lineTaken s k sel.toNat = false := by
  simpa [bindRefused, and_assoc] using hr

/-- The handle that bind_device creates, identified: its line exists and is free, its profile is the resolver's
(R131). -/
theorem bound_mid (hi : s.Inv) {sel : Byte} (hr : bindRefused s k sel = false) (n : Nat) {e : List Event}
    (he : busPhase e = .idle) {p : Profile} (hp : ProfileLegal s.cfg p) :
    Mid k Mode.Between (s.during k n e { Handle.fresh (s.handle k) sel.toNat with profile := p }) := by
  obtain ⟨hv, hsel, htaken⟩ := bindRefused_eq_false hr
  have hs : s.HasSlot k := hasSlot_of_valid hi.bank hv
  refine State.Inv.mid ((hi.advance n he).setHandle ⟨hsel, hp, .inl rfl, fun _ => rfl⟩
    (boundLines_setHandle_nodup hs hi.lines htaken)) ?_
  simp only [validHandle, validIndex, during_cfg, Bool.and_eq_true]
  exact ⟨hv, congrArg Handle.bound (during_handle s k n e _ hs)⟩

theorem runBind_inv (hi : s.Inv) {sel : Byte} (hr : bindRefused s k sel = false) : (runBind k sel s).Inv := by
  have hs : s.HasSlot k := hasSlot_of_valid hi.bank (bindRefused_eq_false hr).1
  simp only [runBind, during_start, identifyBus_eq _ _ _ (during_quiet s k _ _ _ hi.quiet), during_advance,
    during_setProfile s k _ _ _ hs]
  have hid := busPhase_idEvents (s.during k 0 [] (Handle.fresh (s.handle k) sel.toNat)) sel.toNat
  exact (bound_mid hi hr _ hid ⟨_, _, _, by rw [during_cfg]⟩).enable4b.toInv.respond _ _

end Operations

/-! The instructions. -/

/-- The three gates are open on a valid handle with an operable profile, in Standby (R151 to R154). -/
theorem arrayGate_eq_none_iff {s : State} {k : BitVec 4} :
    arrayGate s k = none ↔
      validHandle s k = true ∧ operable (s.handle k).profile = true ∧ (s.handle k).mode = .standby := by
  unfold arrayGate
  split_ifs <;> simp_all

theorem arrayGate_none {s : State} {k : BitVec 4} (h : arrayGate s k = none) : validHandle s k = true :=
  (arrayGate_eq_none_iff.mp h).1

theorem programGate_none {s : State} {k : BitVec 4} {addr : Word} {data : List Byte}
    (h : programGate s k addr data = none) : validHandle s k = true := by
  unfold programGate at h
  split at h
  · cases h
  · exact arrayGate_none ‹_›

/-- Every instruction keeps the invariant. -/
theorem exec_inv {i : Instr} {s t : State} (hi : s.Inv) (h : exec i s = .next t) : t.Inv := by
  cases hc : i.busCmd with
  | some cmd =>
    obtain rfl := busFormat_next (exec_of_busCmd hc s ▸ h)
    obtain ⟨n, e, he, heq⟩ := emitFor_advances hi.quiet i.index cmd
    exact heq ▸ hi.advance n he
  | none =>
    cases i with
    | identify k => cases h; split; exacts [runIdentify_inv (hi.mid ‹_›), hi.respond _ _]
    | read k addr len => cases h; split; exacts [hi.respond _ _, runRead_inv (hi.mid (arrayGate_none ‹_›)) addr len]
    | program k addr data budget =>
      cases h; split
      exacts [hi.respond _ _, runProgram_inv (hi.mid (programGate_none ‹_›)) addr data budget]
    | eraseChip k budget =>
      cases h; split; exacts [hi.respond _ _, runErase_inv (hi.mid (arrayGate_none ‹_›)) .ce budget]
    | eraseBlock k addr budget =>
      cases h; split; exacts [hi.respond _ _, runErase_inv (hi.mid (arrayGate_none ‹_›)) (.be addr) budget]
    | readStatus k => cases h; split; exacts [readStatus_inv (hi.mid ‹_›), hi.respond _ _]
    | softwareReset k => cases h; split; exacts [runSoftwareReset_inv (hi.mid ‹_›), hi.respond _ _]
    | hardwareReset k => cases h; split; exacts [runHardwareReset_inv (hi.mid ‹_›), hi.respond _ _]
    | bindDevice k sel => cases h; split; exacts [hi.respond _ _, runBind_inv hi (Bool.eq_false_of_not_eq_true ‹_›)]
    | readVerify k addr len pattern =>
      cases h; split; exacts [hi.respond _ _, runReadVerify_inv (hi.mid (arrayGate_none ‹_›)) addr len pattern]
    | reservedAB k x => cases h; exact hi.respond _ _
    | reservedCF k x => cases h; exact hi.respond _ _
    | _ => cases hc

/-- The block's reset input leaves an unbound bank and idle lines (R46, R280). -/
theorem blockReset_inv {s : State} (hi : s.Inv) : (blockReset s).Inv where
  cfgWf := hi.cfgWf
  bank := by simp [blockReset, deassertWp]
  busIdle := rfl
  csIdle := rfl
  resetHigh := rfl
  wpIdle := rfl
  handle := by simp [blockReset, deassertWp, Handle.unbound]
  lines := by simp [blockReset, deassertWp, Handle.unbound, boundLines]
  trace := busPhase_append hi.trace rfl

/-! The step (R280). -/

section Step

variable {s : State} {rest : List HostInput}

theorem step_of_idle (hp : s.pending = []) : step s = .next s := by simp [step, fetch, hp]

theorem step_of_request {q : Request} (hp : s.pending = .request q :: rest) :
    step s = exec (decode q) { s with pending := rest } := by simp [step, fetch, hp]

theorem step_of_blockReset (hp : s.pending = .blockReset :: rest) :
    step s = .next (blockReset { s with pending := rest }) := by simp [step, fetch, hp]

end Step

/-- Settles O3: a request's operation ends with the invariant (`exec_inv`), through `Mid` while it runs. -/
theorem everyStepKeepsInvariant : Obligations.EveryStepKeepsInvariant := by
  intro s t hi h
  match hp : s.pending with
  | [] =>
    rw [step_of_idle hp] at h
    cases h
    exact hi
  | .blockReset :: rest =>
    rw [step_of_blockReset hp] at h
    cases h
    exact blockReset_inv (hi.withPending rest)
  | .request q :: rest => exact exec_inv (hi.withPending rest) (step_of_request hp ▸ h)

end Sys2Proof.Machine

/-! PROOFS. The step on its next input, the state after reset, the numeric codes, and the geometry of the profiles that
the resolver yields. -/

namespace Sys2Proof.Machine

open Sys2Proof

/-- Settles O5: the three inputs a step can find (`step_of_request`, `step_of_idle`); a table word is a request at the
head of the queue. -/
theorem stepRunsTheDecodedRequest : Obligations.StepRunsTheDecodedRequest := by
  refine ⟨fun s q rest hp => step_of_request hp, fun s hp => step_of_idle hp, fun s w hw => ?_⟩
  exact ⟨decode (requestOfTableWord 8 w), if_pos (Nat.mod_lt w (by decide)), step_of_request (rest := s.pending) rfl⟩

/-! The state after reset. -/

/-- With any well-formed configuration the state after reset meets the invariant (R46, R280). -/
theorem resetOf_inv {c : Config} (hc : c.wf = true) : (State.resetOf c).Inv where
  cfgWf := hc
  bank := by simp [State.resetOf]
  busIdle := rfl
  csIdle := rfl
  resetHigh := rfl
  wpIdle := rfl
  handle := by simp [State.resetOf, Handle.unbound]
  lines := by simp [State.resetOf, Handle.unbound, boundLines]
  trace := rfl

/-- Settles O1: no handle is bound after reset, and the illustrative configuration is well-formed. -/
theorem resetStateMeetsInvariant : Obligations.ResetStateMeetsInvariant :=
  ⟨resetOf_inv (by decide), fun _ hc => resetOf_inv hc⟩

/-- Settles O11: the three code functions value by value. -/
theorem enumerationCodesAreTheRules : Obligations.EnumerationCodesAreTheRules := by
  refine ⟨rfl, rfl, rfl, fun m => ?_, fun c => ?_⟩
  · cases m <;> decide
  · cases c <;> decide

/-! The profiles of the resolver (R27, R135, R137, R138). -/

theorem densityOk_of_wf {c : Config} (hc : c.wf = true) : c.densityOk = true := by
  simp only [Config.wf, Bool.and_eq_true] at hc
  tauto

/-- A density entry that the registry lists meets rule R27. -/
theorem densOf_ok {c : Config} (hc : c.wf = true) {m d : Byte} {e : DensityEntry} (he : densOf c m d = some e) :
    e.ok = true := by
  obtain ⟨l₁, l₂, hl, -⟩ := List.lookup_eq_some_iff.mp he
  exact List.all_eq_true.mp (densityOk_of_wf hc) ((m, d), e) (by simp [hl])

/-- The profiles that the resolver yields: the Unknown one, or a known vendor's with or without a listed density
entry. -/
theorem ProfileLegal.cases {c : Config} {p : Profile} (hp : ProfileLegal c p) :
    p = unknownProfile c ∨ ∃ v part m d, v ≠ .unknown ∧ p = profileFrom c v part (densOf c m d) := by
  obtain ⟨m, t, d, rfl⟩ := hp
  unfold resolve
  split
  · exact .inl rfl
  · exact .inr ⟨_, _, m, d, ‹_›, rfl⟩

/-- Settles O16: an operable profile copies its density entry, which meets R27; every other profile of the resolver
has the zero geometry. -/
theorem profileGeometryIsSound : Obligations.ProfileGeometryIsSound := by
  intro c p hc hp
  obtain rfl | ⟨v, part, m, d, hv, rfl⟩ := hp.cases
  · exact ⟨by simp [operable, unknownProfile], fun _ => ⟨rfl, rfl, rfl, rfl, rfl, rfl, rfl⟩⟩
  cases he : densOf c m d with
  | none => exact ⟨by simp [operable, profileFrom], fun _ => ⟨rfl, rfl, rfl, rfl, rfl, rfl, rfl⟩⟩
  | some e =>
    have hok := densOf_ok hc he
    simp only [DensityEntry.ok, Bool.and_eq_true, Bool.or_eq_true, decide_eq_true_eq] at hok
    obtain ⟨⟨⟨⟨⟨hpage, hsector⟩, hblock⟩, hdens⟩, hreach⟩, hfour⟩ := hok
    exact ⟨fun _ => ⟨hpage, hsector, hblock, hdens, hreach, fun hbig => hfour.resolve_left hbig.not_ge⟩,
      by simp [operable, profileFrom, hv]⟩

end Sys2Proof.Machine

/-! PROOFS. Which handle fields an instruction writes (R22): for each operation past its gates the handle it leaves,
then `exec_writes`, which says it once for every instruction, state and handle. -/

namespace Sys2Proof.Machine

open Sys2Proof

/-! The handle after a hardware reset. -/

theorem standbyAll_handle (s : State) (j : BitVec 4) : (standbyAll s).handle j = (s.handle j).toStandby := by
  unfold State.handle
  split
  · rfl
  · exact List.getD_map s.handles (Handle.unbound s.cfg) Handle.toStandby

theorem reenableAll_handle (hs : List Handle) (s : State) (j : BitVec 4) : (reenableAll hs s).handle j = s.handle j := by
  obtain ⟨_, r, -, -, hh⟩ := run_reenableAll j hs s
  simp [State.handle, r.cfg, hh]

theorem runHardwareReset_handle (k : BitVec 4) (s : State) (j : BitVec 4) :
    (runHardwareReset k s).handle j = ((s.setMode k .hardwareReset).handle j).toStandby :=
  (standbyAll_handle _ j).trans (congrArg Handle.toStandby (reenableAll_handle _ _ j))

/-! What one write of a mode, or of all modes, leaves of a handle. -/

theorem Handle.toStandby_eq (h : Handle) : ∃ m, h.toStandby = { h with mode := m } := by
  unfold Handle.toStandby
  split
  · exact ⟨_, rfl⟩
  · exact ⟨h.mode, rfl⟩

theorem setMode_handle (s : State) (k j : BitVec 4) (m : Mode) :
    ∃ m', (s.setMode k m).handle j = { s.handle j with mode := m' } := by
  by_cases hj : j = k
  · subst hj
    by_cases hs : s.HasSlot j
    · exact ⟨m, handle_setHandle_self s j _ hs⟩
    · exact ⟨(s.handle j).mode, handle_setHandle_noSlot _ hs⟩
  · exact ⟨(s.handle j).mode, handle_setHandle_ne s k _ hj⟩

@[simp] theorem enable4b_handle (k : BitVec 4) (s : State) : (enable4b k s).handle k = s.handle k := by
  obtain ⟨_, -, -, -, hh⟩ := run_enable4b k s
  exact hh

@[simp] theorem enable4b_hasSlot (k : BitVec 4) (s : State) : (enable4b k s).HasSlot k ↔ s.HasSlot k := by
  obtain ⟨_, r, -⟩ := run_enable4b k s
  exact r.hasSlot k

/-! The handle that each operation leaves, past its gates. -/

section Operations

variable {k : BitVec 4} {s : State} (hs : s.HasSlot k)
include hs

theorem runIdentify_handle : ∃ p, (runIdentify k s).handle k = { s.handle k with profile := p } := by
  obtain ⟨_, r, -, -, hh⟩ := run_identifyBus k (s.handle k).selectLine (s.handle k).profile s
  simp [runIdentify, State.setProfile, handle_setHandle_self, r.hasSlot, hs, hh]

theorem runErase_handle (cmd : BusCmd) (budget : Word) :
    ∃ snap mode, (runErase k cmd budget s).handle k = { s.handle k with snap := snap, mode := mode } := by
  obtain ⟨_, -, -, -, snap, mode, hh⟩ :=
    run_pollLoop k budget.toNat true (emitFor k cmd (emitFor k .wren (s.setMode k .erasing)).2).2
  exact ⟨snap, mode, hh.trans (by simp [State.setMode, handle_setHandle_self, hs])⟩

theorem runProgram_handle (addr : Word) (data : List Byte) (budget : Word) :
    ∃ snap mode, (runProgram k addr data budget s).handle k = { s.handle k with snap := snap, mode := mode } := by
  obtain ⟨_, -, -, -, snap, mode, hh⟩ :=
    run_pollLoop k budget.toNat true (memWrite k addr data (s.setMode k .writing))
  exact ⟨snap, mode, hh.trans (by simp [memWrite, State.setMode, handle_setHandle_self, hs])⟩

theorem runRead_handle (addr len : Word) : (runRead k addr len s).handle k = { s.handle k with mode := .standby } := by
  simp [runRead, memRead, State.setMode, handle_setHandle_self, hs]

theorem runReadVerify_handle (addr len : Word) (pattern : Byte) :
    ∃ n, (runReadVerify k addr len pattern s).handle k = { s.handle k with mode := .standby, mismatch := n } := by
  simp [runReadVerify, memRead, State.setMode, State.setMismatch, handle_setHandle_self, hs]

theorem runSoftwareReset_handle : (runSoftwareReset k s).handle k = { s.handle k with mode := .standby } := by
  simp [runSoftwareReset, State.setMode, handle_setHandle_self, hs]

end Operations

/-! The instructions. -/

theorem Answers.handle_eq_or {k j : BitVec 4} {b d : Nat} {s t : State} (h : Answers k b d s t) :
    t.handle j = s.handle j ∨ j = k ∧ s.HasSlot k := by
  obtain ⟨u, c, v, ⟨evs, r, -⟩, rfl⟩ := h
  by_cases hj : j = k
  · subst hj
    by_cases hs : s.HasSlot j
    · exact .inr ⟨rfl, hs⟩
    · left
      rw [respond_handle, handle_noSlot hs, handle_noSlot (mt (r.hasSlot j).mp hs), r.cfg]
  · exact .inl (r.others j hj)

/-- Program, erase_chip or erase_block on handle `j`: the mutating operations (R22). -/
def Mutates (j : BitVec 4) (i : Instr) : Prop :=
  (∃ a d b, i = .program j a d b) ∨ (∃ b, i = .eraseChip j b) ∨ ∃ a b, i = .eraseBlock j a b

/-- What instruction `i` may make of handle `j` (R22): the value `h'` from `h`. -/
inductive Writes (j : BitVec 4) (i : Instr) (h h' : Handle) : Prop
  | nothing : h' = h → Writes j i h h'
  | whole (sel : Byte) : i = .bindDevice j sel → Writes j i h h'
  | profile (p : Profile) : i = .identify j → h' = { h with profile := p } → Writes j i h h'
  | status (snap : Snapshot) (m : Mode) : Mutates j i ∨ i = .readStatus j →
      h' = { h with snap := snap, mode := m } → Writes j i h h'
  | mismatch (a n : Word) (p : Byte) (w : Word) : i = .readVerify j a n p → h' = { h with mismatch := w } →
      Writes j i h h'
  | mode (m : Mode) : i = .softwareReset j ∨ (∃ k, i = .hardwareReset k) → h' = { h with mode := m } →
      Writes j i h h'

theorem hardwareReset_writes {k : BitVec 4} {s t : State} (h : exec (.hardwareReset k) s = .next t) (j : BitVec 4) :
    Writes j (.hardwareReset k) (s.handle j) (t.handle j) := by
  cases h
  split
  · obtain ⟨m, hm⟩ := setMode_handle s k j .hardwareReset
    obtain ⟨m', hm'⟩ := ((s.setMode k .hardwareReset).handle j).toStandby_eq
    exact .mode m' (.inr ⟨k, rfl⟩) (by rw [runHardwareReset_handle, hm', hm])
  · exact .nothing rfl

/-- A program or an erase writes the snapshot and the mode of its handle, unless a gate refuses it. -/
theorem mutation_writes {i : Instr} {k : BitVec 4} {s u : State} {g : Option Code} (hi : Mutates k i)
    (hu : ∃ snap mode, u.handle k = { s.handle k with snap := snap, mode := mode }) :
    Writes k i (s.handle k) ((match g with | some e => raise e s | none => u).handle k) := by
  obtain ⟨snap, mode, hu⟩ := hu
  cases g with
  | some e => exact .nothing rfl
  | none => exact .status snap mode (.inl hi) hu

/-- A host request on the handle that it names. -/
theorem request_writes_own {i : Instr} {s t : State} (hc : i.busCmd = none) (h : exec i s = .next t)
    (hs : s.HasSlot i.index) : Writes i.index i (s.handle i.index) (t.handle i.index) := by
  cases i with
  | identify k =>
    cases h; split
    · obtain ⟨p, hp⟩ := runIdentify_handle hs
      exact .profile p rfl hp
    · exact .nothing rfl
  | read k addr len =>
    cases h; split
    · exact .nothing rfl
    · next hg =>
      have hr := runRead_handle hs addr len
      rw [← (arrayGate_eq_none_iff.mp hg).2.2] at hr
      exact .nothing hr
  | program k addr data budget =>
    cases h; exact mutation_writes (.inl ⟨addr, data, budget, rfl⟩) (runProgram_handle hs addr data budget)
  | eraseChip k budget =>
    cases h; exact mutation_writes (.inr (.inl ⟨budget, rfl⟩)) (runErase_handle hs .ce budget)
  | eraseBlock k addr budget =>
    cases h; exact mutation_writes (.inr (.inr ⟨addr, budget, rfl⟩)) (runErase_handle hs (.be addr) budget)
  | readStatus k =>
    cases h; split
    · obtain ⟨_, -, -, -, heq | heq⟩ := run_statusRead k s
      · exact .nothing heq
      · exact .status _ _ (.inr rfl) heq
    · exact .nothing rfl
  | softwareReset k =>
    cases h; split
    · exact .mode .standby (.inl rfl) (runSoftwareReset_handle hs)
    · exact .nothing rfl
  | hardwareReset k => exact hardwareReset_writes h k
  | bindDevice k sel => exact .whole sel rfl
  | readVerify k addr len pattern =>
    cases h; split
    · exact .nothing rfl
    · next hg =>
      obtain ⟨n, hn⟩ := runReadVerify_handle hs addr len pattern
      rw [← (arrayGate_eq_none_iff.mp hg).2.2] at hn
      exact .mismatch addr len pattern n rfl hn
  | reservedAB k x => cases h; exact .nothing rfl
  | reservedCF k x => cases h; exact .nothing rfl
  | _ => cases hc

/-- Every instruction, on every handle: R22's "written by" column. -/
theorem exec_writes {i : Instr} {s t : State} (h : exec i s = .next t) (j : BitVec 4) :
    Writes j i (s.handle j) (t.handle j) := by
  cases hc : i.busCmd with
  | some cmd =>
    obtain rfl := busFormat_next (exec_of_busCmd hc s ▸ h)
    exact .nothing (emitFor_handle ..)
  | none =>
    obtain ha | ⟨k, rfl, -⟩ := exec_request_cases hc h
    · obtain heq | ⟨rfl, hs⟩ := ha.handle_eq_or (j := j)
      · exact .nothing heq
      · exact request_writes_own hc h hs
    · exact hardwareReset_writes h j

/-- Settles O38: each way an instruction writes a handle (`exec_writes`) leaves the fields of the others. -/
theorem handleFieldsHaveTheirWriters : Obligations.HandleFieldsHaveTheirWriters := by
  intro i s t j h
  cases exec_writes h j with
  | nothing heq => simp [heq]
  | whole sel hi => simp [hi]
  | profile p hi heq => simp [heq, hi]
  | status snap m hi heq =>
    simp only [heq, ne_eq, not_true_eq_false, false_implies, true_and]
    exact ⟨fun _ => .inr hi, fun _ => .inr (hi.imp_right .inl)⟩
  | mismatch a n p w hi heq => simp [heq, hi]
  | mode m hi heq =>
    simp only [heq, ne_eq, not_true_eq_false, false_implies, true_and]
    exact fun _ => .inr (.inr (.inr hi))

end Sys2Proof.Machine

/-! PROOFS. Noninterference, once for snapshots (R33) and part numbers (R26): a `Blur` says what is forgotten of the two;
states that look alike through it still do after every instruction. -/

namespace Sys2Proof.Machine

open Sys2Proof

/-- What an observer forgets of every snapshot and of every part number. An unbound handle looks like itself. -/
structure Blur where
  snap : Snapshot → Snapshot
  part : Option String → Option String
  snap_empty : snap Snapshot.empty = Snapshot.empty
  part_none : part none = none

namespace Blur

/-- A profile as the observer sees it. -/
def profile (b : Blur) (p : Profile) : Profile := { p with partNumber := b.part p.partNumber }

/-- A handle as the observer sees it. -/
def handle (b : Blur) (h : Handle) : Handle := { h with profile := b.profile h.profile, snap := b.snap h.snap }

/-- The values of a response as the observer sees them: only a snapshot is blurred. -/
def values (b : Blur) : Values → Values
  | .snapshot f => .snapshot (b.snap f)
  | v => v

/-- A state as the observer sees it. -/
def state (b : Blur) (s : State) : State :=
  { s with handles := s.handles.map b.handle,
           responses := s.responses.map fun r => { r with values := b.values r.values } }

/-- The observer cannot tell the two states apart. -/
def Alike (b : Blur) (s r : State) : Prop := b.state s = b.state r

/-- Two results that are equal, with states that look alike. -/
def AlikeWith {α : Type} (b : Blur) (x y : α × State) : Prop := x.1 = y.1 ∧ b.Alike x.2 y.2

variable {b : Blur} {s r : State} {k : BitVec 4}

/-! What is seen through the blur. -/

theorem state_handle (b : Blur) (s : State) (k : BitVec 4) : (b.state s).handle k = b.handle (s.handle k) := by
  have hu : b.handle (Handle.unbound s.cfg) = Handle.unbound s.cfg := by
    simp [handle, profile, Handle.unbound, unknownProfile, b.snap_empty, b.part_none]
  unfold State.handle
  split
  · exact hu.symm
  · have := s.handles.getD_map (Handle.unbound s.cfg) (n := k.toNat - 1) b.handle
    rwa [hu] at this

theorem state_setHandle (b : Blur) (s : State) (k : BitVec 4) (h : Handle) :
    b.state (s.setHandle k h) = (b.state s).setHandle k (b.handle h) := by
  unfold State.setHandle
  split
  · rfl
  · simp [state, List.map_set]

theorem state_respond (b : Blur) (c : Code) (v : Values) (s : State) :
    b.state (respond c v s) = respond c (b.values v) (b.state s) := by
  simp [state, respond]

/-- No bracket depends on the part number. -/
theorem encodeBus_profile (b : Blur) (c : Config) (n : Nat) (p : Profile) (cmd : BusCmd) :
    encodeBus c n (b.profile p) cmd = encodeBus c n p cmd := by
  cases cmd <;> rfl

theorem emit_state (b : Blur) (l : Nat) (p : Profile) (cmd : BusCmd) (s : State) :
    emit l (b.profile p) cmd (b.state s) = ((emit l p cmd s).1, b.state (emit l p cmd s).2) := by
  rw [emit_general, emit_general, encodeBus_profile]
  rfl

/-! Fields. -/

theorem Alike.eq (h : b.Alike s r) : b.state s = b.state r := h

theorem Alike.cfg (h : b.Alike s r) : s.cfg = r.cfg := (congrArg State.cfg h :)

theorem Alike.handle (h : b.Alike s r) (k : BitVec 4) : b.handle (s.handle k) = b.handle (r.handle k) := by
  rw [← state_handle, ← state_handle]
  exact congrArg (State.handle · k) h

theorem Alike.bound (h : b.Alike s r) (k : BitVec 4) : (s.handle k).bound = (r.handle k).bound :=
  (congrArg Handle.bound (h.handle k) :)

theorem Alike.selectLine (h : b.Alike s r) (k : BitVec 4) : (s.handle k).selectLine = (r.handle k).selectLine :=
  (congrArg Handle.selectLine (h.handle k) :)

theorem Alike.mode (h : b.Alike s r) (k : BitVec 4) : (s.handle k).mode = (r.handle k).mode :=
  (congrArg Handle.mode (h.handle k) :)

theorem Alike.profile (h : b.Alike s r) (k : BitVec 4) :
    b.profile (s.handle k).profile = b.profile (r.handle k).profile :=
  congrArg Handle.profile (h.handle k)

theorem Alike.snap (h : b.Alike s r) (k : BitVec 4) : b.snap (s.handle k).snap = b.snap (r.handle k).snap :=
  congrArg Handle.snap (h.handle k)

/-! Writes. -/

theorem Alike.setHandle (h : b.Alike s r) {x y : Handle} (hxy : b.handle x = b.handle y) :
    b.Alike (s.setHandle k x) (r.setHandle k y) := by
  rw [Alike, state_setHandle, state_setHandle, hxy, h.eq]

theorem Alike.setMode (h : b.Alike s r) (k : BitVec 4) (m : Mode) : b.Alike (s.setMode k m) (r.setMode k m) :=
  h.setHandle (congrArg (fun x : Handle => { x with mode := m }) (h.handle k))

theorem Alike.setMismatch (h : b.Alike s r) (k : BitVec 4) (n : Word) :
    b.Alike (s.setMismatch k n) (r.setMismatch k n) :=
  h.setHandle (congrArg (fun x : Handle => { x with mismatch := n }) (h.handle k))

theorem Alike.setSnap (h : b.Alike s r) (k : BitVec 4) (f : StatusFlags) : b.Alike (s.setSnap k f) (r.setSnap k f) :=
  h.setHandle (congrArg (fun x : Handle => { x with snap := b.snap ⟨true, f⟩ }) (h.handle k))

theorem Alike.setProfile (h : b.Alike s r) (k : BitVec 4) (p : Profile) :
    b.Alike (s.setProfile k p) (r.setProfile k p) :=
  h.setHandle (congrArg (fun x : Handle => { x with profile := b.profile p }) (h.handle k))

theorem Alike.bindFresh (h : b.Alike s r) (k : BitVec 4) (l : Nat) :
    b.Alike (s.setHandle k (Handle.fresh (s.handle k) l)) (r.setHandle k (Handle.fresh (r.handle k) l)) :=
  h.setHandle (congrArg (fun x : Handle => { x.fresh l with snap := b.snap Snapshot.empty }) (h.handle k))

theorem Alike.respond (h : b.Alike s r) (c : Code) {v w : Values} (hvw : b.values v = b.values w) :
    b.Alike (respond c v s) (respond c w r) := by
  rw [Alike, state_respond, state_respond, hvw, h.eq]

theorem Alike.raise (h : b.Alike s r) (c : Code) : b.Alike (raise c s) (raise c r) := h.respond c rfl

theorem Alike.delay (h : b.Alike s r) (t : Nat) : b.Alike (delay t s) (delay t r) :=
  congrArg (Machine.delay t) h

/-- A delay that the configuration fixes. -/
theorem Alike.delayFor (h : b.Alike s r) (t : Config → Nat) :
    b.Alike (Machine.delay (t s.cfg) s) (Machine.delay (t r.cfg) r) := by
  rw [h.cfg]
  exact h.delay _

theorem Alike.driveReset (h : b.Alike s r) (high : Bool) : b.Alike (driveReset high s) (driveReset high r) :=
  congrArg (Machine.driveReset high) h

theorem Alike.emit (h : b.Alike s r) {p q : Profile} (hpq : b.profile p = b.profile q) (l : Nat) (cmd : BusCmd) :
    b.AlikeWith (emit l p cmd s) (emit l q cmd r) := by
  have heq : Machine.emit l (b.profile p) cmd (b.state s) = Machine.emit l (b.profile q) cmd (b.state r) := by
    rw [hpq, h.eq]
  rw [emit_state, emit_state] at heq
  exact Prod.mk.inj heq

theorem Alike.emitFor (h : b.Alike s r) (k : BitVec 4) (cmd : BusCmd) :
    b.AlikeWith (emitFor k cmd s) (emitFor k cmd r) := by
  rw [Machine.emitFor, Machine.emitFor, h.selectLine k]
  exact h.emit (h.profile k) _ cmd

/-! The shared operations. -/

theorem Alike.memRead (h : b.Alike s r) (k : BitVec 4) (addr len : Word) :
    b.AlikeWith (memRead k addr len s) (memRead k addr len r) := by
  obtain ⟨hbytes, hstate⟩ := h.emitFor k (.read addr len)
  have hw : (s.handle k).profile.addrWidth = (r.handle k).profile.addrWidth :=
    (congrArg Profile.addrWidth (h.profile k) :)
  exact ⟨by simp only [Machine.memRead, hbytes, hw], hstate⟩

theorem Alike.enable4b (h : b.Alike s r) (k : BitVec 4) : b.Alike (enable4b k s) (enable4b k r) := by
  have hw : (s.handle k).profile.addrWidth = (r.handle k).profile.addrWidth :=
    (congrArg Profile.addrWidth (h.profile k) :)
  unfold Machine.enable4b
  rw [hw]
  split
  · exact (h.emitFor k .en4b).2
  · exact h

theorem Alike.identifyBus (h : b.Alike s r) {p q : Profile} (hpq : b.profile p = b.profile q) (l : Nat) :
    b.AlikeWith (identifyBus l p s) (identifyBus l q r) := by
  obtain ⟨hid, hs⟩ := h.emit hpq l .rdid
  obtain ⟨heid, hs'⟩ := hs.emit hpq l .eid
  unfold Machine.identifyBus
  dsimp only
  rw [hid, heid, h.cfg]
  split
  · exact ⟨rfl, hs'⟩
  · exact ⟨rfl, hs⟩

theorem Alike.statusBytes (h : b.Alike s r) (k : BitVec 4) : b.AlikeWith (statusBytes k s) (statusBytes k r) := by
  obtain ⟨hpri, hs⟩ := h.emitFor k .rdsr
  obtain ⟨hsec, hs'⟩ := hs.emitFor k .rdsr2
  have hc : readsSecondary s.cfg (s.handle k).profile = readsSecondary r.cfg (r.handle k).profile := by
    rw [h.cfg]
    exact (congrArg (readsSecondary r.cfg) (h.profile k) :)
  unfold Machine.statusBytes
  dsimp only
  rw [hpri, hsec, hc]
  split
  · exact ⟨rfl, hs'⟩
  · exact ⟨rfl, hs⟩

theorem Alike.statusRead (h : b.Alike s r) (k : BitVec 4) : b.AlikeWith (statusRead k s) (statusRead k r) := by
  obtain ⟨hbytes, hs⟩ := h.statusBytes k
  have hl : (s.handle k).profile.layout = (r.handle k).profile.layout := (congrArg Profile.layout (h.profile k) :)
  unfold Machine.statusRead
  dsimp only
  rw [hbytes, hl]
  have hsnap := hs.setSnap k (decodeStatus (r.handle k).profile.layout (Machine.statusBytes k r).1.1
    (Machine.statusBytes k r).1.2)
  rw [hsnap.mode k]
  exact ⟨rfl, hsnap.setMode k _⟩

theorem Alike.pollDelay (h : b.Alike s r) : b.Alike (pollDelay s) (pollDelay r) := by
  unfold Machine.pollDelay
  rw [h.cfg]
  split
  · exact h.delay _
  · exact h

theorem Alike.pollLoop (h : b.Alike s r) (k : BitVec 4) (n : Nat) (first : Bool) :
    b.AlikeWith (pollLoop k n first s) (pollLoop k n first r) := by
  induction n generalizing s r first with
  | zero => exact ⟨rfl, h⟩
  | succ n ih =>
    have hstart : b.Alike (if first then s else Machine.pollDelay s) (if first then r else Machine.pollDelay r) := by
      cases first
      · exact h.pollDelay
      · exact h
    rw [Machine.pollLoop, Machine.pollLoop]
    generalize (if first then s else Machine.pollDelay s) = s₀ at hstart ⊢
    generalize (if first then r else Machine.pollDelay r) = r₀ at hstart ⊢
    obtain ⟨hf, hs⟩ := hstart.statusRead k
    rw [hf]
    split
    · exact ih hs false
    · exact ⟨rfl, hs⟩

theorem Alike.snapshotOf (h : b.Alike s r) (k : BitVec 4) :
    b.values (snapshotOf k s) = b.values (snapshotOf k r) :=
  congrArg Values.snapshot (h.snap k)

theorem Alike.poll (h : b.Alike s r) (k : BitVec 4) (budget : Word) : b.Alike (poll k budget s) (poll k budget r) := by
  obtain ⟨hc, hs⟩ := h.pollLoop k budget.toNat true
  unfold Machine.poll
  dsimp only
  rw [hc]
  exact hs.respond _ (hs.snapshotOf k)

theorem Alike.reenableAll (h : b.Alike s r) {hs hr : List Handle} (hl : hs.map b.handle = hr.map b.handle) :
    b.Alike (reenableAll hs s) (reenableAll hr r) := by
  induction hs generalizing hr s r with
  | nil =>
    obtain rfl : hr = [] := by simpa using hl.symm
    exact h
  | cons x hs ih =>
    cases hr with
    | nil => simp at hl
    | cons y hr =>
      obtain ⟨hxy, hl⟩ := List.cons.inj hl
      have hb : x.bound = y.bound := (congrArg Handle.bound hxy :)
      have hline : x.selectLine = y.selectLine := (congrArg Handle.selectLine hxy :)
      have hp : b.profile x.profile = b.profile y.profile := (congrArg Handle.profile hxy :)
      have hw : x.profile.addrWidth = y.profile.addrWidth := (congrArg Profile.addrWidth hp :)
      rw [Machine.reenableAll, Machine.reenableAll, hb, hline, hw]
      refine ih ?_ hl
      split
      · exact (h.emit hp _ .en4b).2
      · exact h

theorem Alike.standbyAll (h : b.Alike s r) : b.Alike (standbyAll s) (standbyAll r) := by
  have key (s : State) : b.state (Machine.standbyAll s) = Machine.standbyAll (b.state s) := by
    have hx (x : Handle) : b.handle x.toStandby = (b.handle x).toStandby := by
      unfold Handle.toStandby
      cases hb : x.bound <;> simp [Blur.handle, hb]
    simp [state, Machine.standbyAll, hx]
  rw [Alike, key, key, h.eq]

/-! The gates. -/

theorem Alike.validHandle (h : b.Alike s r) (k : BitVec 4) : validHandle s k = validHandle r k := by
  simp only [Machine.validHandle, validIndex, h.cfg, h.bound k]

theorem Alike.arrayGate (h : b.Alike s r) (k : BitVec 4) : arrayGate s k = arrayGate r k := by
  have ho : operable (s.handle k).profile = operable (r.handle k).profile := (congrArg operable (h.profile k) :)
  simp only [Machine.arrayGate, h.validHandle k, h.mode k, ho]

theorem Alike.programGate (h : b.Alike s r) (k : BitVec 4) (addr : Word) (data : List Byte) :
    programGate s k addr data = programGate r k addr data := by
  have ha : pageAligned (s.handle k).profile addr data = pageAligned (r.handle k).profile addr data :=
    (congrArg (pageAligned · addr data) (h.profile k) :)
  simp only [Machine.programGate, h.arrayGate k, ha]

theorem Alike.bindRefused (h : b.Alike s r) (k : BitVec 4) (sel : Byte) :
    bindRefused s k sel = bindRefused r k sel := by
  have key (s : State) : lineTaken (b.state s) k sel.toNat = lineTaken s k sel.toNat := by
    simp only [lineTaken, state, List.zipIdx_map, List.any_map]
    rfl
  have ht : lineTaken s k sel.toNat = lineTaken r k sel.toNat := by
    rw [← key s, ← key r, h.eq]
  simp only [Machine.bindRefused, validIndex, h.cfg, ht]

/-! The operations, past their gates: one link per step of each. -/

theorem Alike.runErase (h : b.Alike s r) (k : BitVec 4) (cmd : BusCmd) (budget : Word) :
    b.Alike (runErase k cmd budget s) (runErase k cmd budget r) :=
  (((h.setMode k .erasing).emitFor k .wren).2.emitFor k cmd).2.poll k budget

theorem Alike.runProgram (h : b.Alike s r) (k : BitVec 4) (addr : Word) (data : List Byte) (budget : Word) :
    b.Alike (runProgram k addr data budget s) (runProgram k addr data budget r) :=
  (((h.setMode k .writing).emitFor k .wren).2.emitFor k (.pp addr data)).2.poll k budget

theorem Alike.readStatus (h : b.Alike s r) (k : BitVec 4) :
    b.Alike (Machine.respond .ok (Machine.snapshotOf k (Machine.statusRead k s).2) (Machine.statusRead k s).2)
      (Machine.respond .ok (Machine.snapshotOf k (Machine.statusRead k r).2) (Machine.statusRead k r).2) :=
  have hs := (h.statusRead k).2
  hs.respond _ (hs.snapshotOf k)

theorem Alike.runRead (h : b.Alike s r) (k : BitVec 4) (addr len : Word) :
    b.Alike (runRead k addr len s) (runRead k addr len r) := by
  obtain ⟨hbytes, hs⟩ := (h.setMode k .reading).memRead k addr len
  exact (hs.setMode k .standby).respond _ (by rw [hbytes])

theorem Alike.runReadVerify (h : b.Alike s r) (k : BitVec 4) (addr len : Word) (pattern : Byte) :
    b.Alike (runReadVerify k addr len pattern s) (runReadVerify k addr len pattern r) := by
  have hstart := (h.setMode k .reading).setMismatch k 0
  obtain ⟨hbytes, hs⟩ := hstart.memRead k addr len
  have hsector : (((s.setMode k .reading).setMismatch k 0).handle k).profile.sectorSize =
      (((r.setMode k .reading).setMismatch k 0).handle k).profile.sectorSize :=
    (congrArg Profile.sectorSize (hstart.profile k) :)
  unfold Machine.runReadVerify
  dsimp only
  rw [hbytes, hsector]
  exact ((hs.setMismatch k _).setMode k .standby).respond _ rfl

theorem Alike.runIdentify (h : b.Alike s r) (k : BitVec 4) : b.Alike (runIdentify k s) (runIdentify k r) := by
  obtain ⟨hid, hs⟩ := h.identifyBus (h.profile k) (s.handle k).selectLine
  unfold Machine.runIdentify
  dsimp only
  rw [← h.selectLine k, hid, h.cfg]
  exact (hs.setProfile k _).respond _ rfl

theorem Alike.runBind (h : b.Alike s r) (k : BitVec 4) (sel : Byte) : b.Alike (runBind k sel s) (runBind k sel r) := by
  have hfresh := h.bindFresh k sel.toNat
  obtain ⟨hid, hs⟩ := hfresh.identifyBus (hfresh.profile k) sel.toNat
  unfold Machine.runBind
  dsimp only
  rw [hid, hfresh.cfg]
  exact ((hs.setProfile k _).enable4b k).respond _ rfl

theorem Alike.runSoftwareReset (h : b.Alike s r) (k : BitVec 4) :
    b.Alike (runSoftwareReset k s) (runSoftwareReset k r) := by
  have hrst := (((h.setMode k .softwareReset).emitFor k .rsten).2.delayFor Config.tSrstSettle).emitFor k .rst
  exact ((hrst.2.enable4b k).setMode k .standby).respond .ok rfl

theorem Alike.runHardwareReset (h : b.Alike s r) (k : BitVec 4) :
    b.Alike (runHardwareReset k s) (runHardwareReset k r) := by
  have hpulse := (h.setMode k .hardwareReset).driveReset false |>.delayFor Config.tHrstHold |>.driveReset true
    |>.delayFor Config.tHrstSettle
  exact (hpulse.reenableAll (congrArg State.handles hpulse.eq :)).standbyAll.respond .ok rfl

/-! The instructions. -/

/-- Next states that look alike make outcomes that do. -/
theorem Alike.next (h : b.Alike s r) : onNext b.state (.next s) = onNext b.state (.next r) :=
  congrArg Host.Outcome.next h

theorem Alike.busFormat (h : b.Alike s r) (k : BitVec 4) (cmd : BusCmd) :
    onNext b.state (busFormat k cmd s) = onNext b.state (busFormat k cmd r) := by
  unfold Machine.busFormat
  rw [h.validHandle k]
  split
  · exact (h.emitFor k cmd).2.next
  · rfl

/-- No instruction tells two states apart that look alike. -/
theorem Alike.exec (h : b.Alike s r) (i : Instr) : onNext b.state (exec i s) = onNext b.state (exec i r) := by
  cases hc : i.busCmd with
  | some cmd =>
    rw [exec_of_busCmd hc, exec_of_busCmd hc]
    exact h.busFormat i.index cmd
  | none =>
    cases i with
    | identify k =>
      refine Alike.next ?_
      rw [h.validHandle k]
      split; exacts [h.runIdentify k, h.raise _]
    | read k addr len =>
      refine Alike.next ?_
      rw [h.arrayGate k]
      split; exacts [h.raise _, h.runRead k addr len]
    | program k addr data budget =>
      refine Alike.next ?_
      rw [h.programGate k addr data]
      split; exacts [h.raise _, h.runProgram k addr data budget]
    | eraseChip k budget =>
      refine Alike.next ?_
      rw [h.arrayGate k]
      split; exacts [h.raise _, h.runErase k .ce budget]
    | eraseBlock k addr budget =>
      refine Alike.next ?_
      rw [h.arrayGate k]
      split; exacts [h.raise _, h.runErase k (.be addr) budget]
    | readStatus k =>
      refine Alike.next ?_
      rw [h.validHandle k]
      split; exacts [h.readStatus k, h.raise _]
    | softwareReset k =>
      refine Alike.next ?_
      rw [h.validHandle k]
      split; exacts [h.runSoftwareReset k, h.raise _]
    | hardwareReset k =>
      refine Alike.next ?_
      rw [h.validHandle k]
      split; exacts [h.runHardwareReset k, h.raise _]
    | bindDevice k sel =>
      refine Alike.next ?_
      rw [h.bindRefused k sel]
      split; exacts [h.raise _, h.runBind k sel]
    | readVerify k addr len pattern =>
      refine Alike.next ?_
      rw [h.arrayGate k]
      split; exacts [h.raise _, h.runReadVerify k addr len pattern]
    | reservedAB k x => exact (h.raise _).next
    | reservedCF k x => exact (h.raise _).next
    | _ => cases hc

/-! The two observers. -/

/-- Forgets the snapshots and nothing else. -/
def snaps : Blur := ⟨fun _ => Snapshot.empty, id, rfl, rfl⟩

/-- Forgets the part numbers and nothing else. -/
def parts : Blur := ⟨id, fun _ => none, rfl, rfl⟩

theorem snaps_state : snaps.state = State.forgetSnaps := by
  have hv : snaps.values = forgetSnap := by
    funext v
    cases v <;> rfl
  funext s
  rw [state, hv]
  rfl

theorem parts_state : parts.state = State.forgetParts := by
  have hv : parts.values = id := by
    funext v
    cases v <;> rfl
  funext s
  rw [state, hv]
  exact congrArg (fun rs => { s.forgetParts with responses := rs }) (List.map_id s.responses)

end Blur

/-- Settles O43: the case of an observer that forgets the snapshots. -/
theorem snapshotsNeverDecide : Obligations.SnapshotsNeverDecide := by
  intro i s r h
  rw [← Blur.snaps_state] at h ⊢
  exact Blur.Alike.exec h i

/-- Settles O44: the case of an observer that forgets the part numbers. -/
theorem partNumbersNeverDecide : Obligations.PartNumbersNeverDecide := by
  intro i s r h
  rw [← Blur.parts_state] at h ⊢
  exact Blur.Alike.exec h i

end Sys2Proof.Machine

/-! PROOFS. The memory operations (R66 to R68, R75): the frame over the other handles, then in closed form an admitted
read, the shared course of the mutating operations (`mutationOutcome_of_exec`), and a status read, each on an idle
bus. -/

namespace Sys2Proof.Machine

open Sys2Proof

/-! The other handles (R75). -/

/-- Settles O39: a request's run writes its own handle at most (`Run.others`), a bus format writes none, and an admitted
hardware reset then writes the mode of every bound handle. -/
theorem otherHandlesAreUntouched : Obligations.OtherHandlesAreUntouched := by
  intro i s t j h hj
  obtain ⟨u, c, v, ⟨evs, r, -⟩, rfl⟩ | ⟨k, rfl, u, ⟨evs, r, -⟩, rfl⟩ | ⟨cmd, -, rfl⟩ := exec_next_cases h
  · have hu : u.handle j = s.handle j := r.others j hj
    exact ⟨fun _ => hu, by simp [hu]⟩
  · obtain ⟨m, hm⟩ := (s.handle j).toStandby_eq
    have ht : (standbyAll u).handle j = { s.handle j with mode := m } := by
      rw [standbyAll_handle, r.others j hj, hm]
    exact ⟨fun hne => absurd rfl (hne k), by simp [ht]⟩
  · exact ⟨fun _ => emitFor_handle .., by simp⟩

/-! An operation that its gates admit (R151 to R154). -/

theorem Admitted.hasSlot {s : State} {k : BitVec 4} (ha : Admitted s k) : s.HasSlot k := ha.inv.hasSlot ha.valid

theorem Admitted.arrayGate {s : State} {k : BitVec 4} (ha : Admitted s k) : arrayGate s k = none :=
  arrayGate_eq_none_iff.mpr ⟨ha.valid, ha.operable, ha.standby⟩

/-- An operable handle has a page size greater than zero (R27), so that no free remainder (log 9) is in play. -/
theorem Admitted.pageSize_pos {s : State} {k : BitVec 4} (ha : Admitted s k) :
    0 < (s.handle k).profile.pageSize.toNat :=
  ((profileGeometryIsSound _ _ ha.inv.cfgWf (ha.inv.handleInv ha.valid).profile).1 ha.operable).1

/-- A page-aligned program of at most one page passes its last gate too (R172). -/
theorem Admitted.programGate {s : State} {k : BitVec 4} (ha : Admitted s k) {addr : Word} {data : List Byte}
    (hlen : data.length ≤ (s.handle k).profile.pageSize.toNat)
    (hpage : addr.toNat % (s.handle k).profile.pageSize.toNat = 0) : programGate s k addr data = none := by
  have hrem : remainder addr.toNat (s.handle k).profile.pageSize.toNat = 0 := by
    rwa [remainder, if_neg ha.pageSize_pos.ne']
  simp [Machine.programGate, ha.arrayGate, pageAligned, hlen, hrem]

theorem setMode_eq_during (s : State) (k : BitVec 4) (m : Mode) :
    s.setMode k m = s.during k 0 [] { s.handle k with mode := m } := during_start s k _

/-- An operation that leaves its handle as it was leaves the whole bank so. -/
theorem during_handle_self (s : State) (k : BitVec 4) (n : Nat) (e : List Event) :
    s.during k n e (s.handle k) = s.advance n e := setHandle_handle_self (s.advance n e) k

theorem during_handles (s : State) (k : BitVec 4) (n : Nat) (e : List Event) (h : Handle) :
    (s.during k n e h).handles = (s.setHandle k h).handles := by
  rw [State.during, ← setHandle_advance, advance_handles]

/-! The read (R66, R191, R192). -/

/-- The number of address bytes is the width, whether the address fits it or not (R105, R109; log 6). -/
@[simp] theorem addrBytes_length (n : Nat) (w : AddrWidth) (a : Word) : (addrBytes n w a).length = widthBytes w := by
  cases w with
  | three => simp [addrBytes, apply_ite List.length, widthBytes]
  | four => rfl

/-- `MemRead` inside an operation: one bracket, and the last `len` of the bytes that came back. -/
theorem memRead_during (s : State) (k : BitVec 4) (n : Nat) (e : List Event) (h : Handle) (hq : s.Quiet)
    (hs : s.HasSlot k) (addr len : Word) :
    memRead k addr len (s.during k n e h) =
      (s.answers (n + (1 + widthBytes h.profile.addrWidth)) len.toNat,
        s.during k (n + (1 + widthBytes h.profile.addrWidth + len.toNat))
          (e ++ s.bracketAt n h.selectLine (encodeBus s.cfg (s.xferCount + n) h.profile (.read addr len))) h) := by
  have hlen : (encodeBus s.cfg (s.xferCount + n) h.profile (.read addr len)).length =
      1 + widthBytes h.profile.addrWidth + len.toNat := by simp [encodeBus]; omega
  rw [memRead, emitFor_during s k n e h hq hs, during_handle s k n e h hs, hlen, answers_drop]

/-- Settles O26: `MemRead` between two writes of the mode, of which the second restores Standby. -/
theorem readReturnsTheBytesOfOneBracket : Obligations.ReadReturnsTheBytesOfOneBracket := by
  intro s k addr len ha p out
  have hself : { s.handle k with mode := .standby } = s.handle k := by rw [← ha.standby]
  have hrun : exec (.read k addr len) s = .next (runRead k addr len s) := by simp [exec, execRead, ha.arrayGate]
  rw [hrun, runRead, setMode_eq_during]
  simp only [memRead_during s k _ _ _ ha.inv.quiet ha.hasSlot, during_setMode s k _ _ _ ha.hasSlot, hself,
    during_handle_self]
  simp [out, p, encodeBus]

/-! The mutating operations (R157, R161, R162). -/

/-- The write-enable bracket and the command bracket of a mutating operation, after it has entered mode `m`. -/
theorem wren_command_eq (s : State) (k : BitVec 4) (hq : s.Quiet) (hs : s.HasSlot k) (m : Mode) (cmd : BusCmd) :
    (emitFor k cmd (emitFor k .wren (s.setMode k m)).2).2 =
      s.during k (1 + (encodeBus s.cfg (s.xferCount + 1) (s.handle k).profile cmd).length)
        (s.bracketAt 0 (s.handle k).selectLine [opByte s.cfg (s.handle k).profile .wren] ++
          s.bracketAt 1 (s.handle k).selectLine (encodeBus s.cfg (s.xferCount + 1) (s.handle k).profile cmd))
        { s.handle k with mode := m } := by
  rw [setMode_eq_during, emitFor_during s k _ _ _ hq hs, emitFor_during s k _ _ _ hq hs]
  rfl

/-- The handle after `n` busy status reads: the snapshot of the last of them, or the old one if there was none. -/
theorem pollHandle_eq (s : State) (i : Nat) (h : Handle) (n : Nat) :
    s.pollHandle i h n =
      { h with snap := if n = 0 then h.snap else ⟨true, s.pollFlags i h.profile (n - 1)⟩ } := by
  cases n <;> rfl

/-- Where a poll starts, in the form of the laws of its loop. -/
theorem during_poll_start (s : State) (k : BitVec 4) (i : Nat) (e : List Event) (h : Handle) :
    s.during k (i + 0 * statusLen s.cfg h.profile) (e ++ s.pollEvents i h.selectLine h.profile 0)
      (s.pollHandle i h 0) = s.during k i e h := by
  simp [State.pollEvents, State.pollHandle]

section Poll

variable {s : State} {k : BitVec 4} {i : Nat} {e : List Event} {h : Handle} {b : Word} (hq : s.Quiet) (hs : s.HasSlot k)
include hq hs

/-- A poll whose status read `n` is the first that decodes busy = 0, within the budget (R161). -/
theorem poll_of_idle {n : Nat} (hn : n < b.toNat) (hbusy : ∀ j < n, (s.pollFlags i h.profile j).busy = true)
    (hidle : (s.pollFlags i h.profile n).busy = false) :
    poll k b (s.during k i e h) =
      respond .ok (.snapshot ⟨true, s.pollFlags i h.profile n⟩)
        (s.during k (i + (n + 1) * statusLen s.cfg h.profile) (e ++ s.pollEvents i h.selectLine h.profile (n + 1))
          { h with mode := modeAfterStatus h.mode false, snap := ⟨true, s.pollFlags i h.profile n⟩ }) := by
  have hloop := pollLoop_ok s k i e h hq hs n 0 b.toNat hn (by simpa using hbusy) (by simpa using hidle) true rfl
  rw [during_poll_start, Nat.zero_add] at hloop
  simp [poll, hloop, snapshotOf, during_handle, hs, State.pollHandle]

/-- A poll all of whose status reads decode busy = 1 (R162). -/
theorem poll_of_busy (hbusy : ∀ j < b.toNat, (s.pollFlags i h.profile j).busy = true) :
    poll k b (s.during k i e h) =
      respond .busyTimeout (.snapshot (s.pollHandle i h b.toNat).snap)
        (s.during k (i + b.toNat * statusLen s.cfg h.profile) (e ++ s.pollEvents i h.selectLine h.profile b.toNat)
          (s.pollHandle i h b.toNat)) := by
  have hloop := pollLoop_timeout s k i e h hq hs b.toNat 0 (by simpa using hbusy) true rfl
  rw [during_poll_start, Nat.zero_add] at hloop
  simp [poll, hloop, snapshotOf, during_handle, hs]

end Poll

/-- What a program or an erase does once its gates are open: the two ways in which its poll can end. -/
theorem mutationOutcome_of_exec {i : Instr} {s : State} {k : BitVec 4} {m : Mode} {cmd : BusCmd} {b : Word}
    (ha : Admitted s k) (hm : m = .writing ∨ m = .erasing)
    (hx : exec i s = .next (poll k b (emitFor k cmd (emitFor k .wren (s.setMode k m)).2).2)) :
    MutationOutcome i k m (encodeBus s.cfg (s.xferCount + 1) (s.handle k).profile cmd) b s := by
  have hq := ha.inv.quiet
  have hs := ha.hasSlot
  have hmode : modeAfterStatus m false = .standby := if_pos ⟨rfl, hm⟩
  rw [wren_command_eq s k hq hs] at hx
  refine ⟨fun n hn hbusy hidle => ?_, fun hbusy => ?_⟩
  · rw [hx, poll_of_idle (h := { s.handle k with mode := m }) hq hs hn hbusy hidle, hmode]
    rfl
  · rw [hx, poll_of_busy (h := { s.handle k with mode := m }) hq hs hbusy, pollHandle_eq]
    rfl

/-- Settles O28: the gates admit the program, and `MemWrite` is the write-enable bracket and the B-PP bracket. -/
theorem programIssuesItsCommandAndPolls : Obligations.ProgramIssuesItsCommandAndPolls := by
  intro s k addr data budget ha hlen hpage
  refine mutationOutcome_of_exec (cmd := .pp addr data) ha (.inl rfl) ?_
  simp [exec, execProgram, ha.programGate hlen hpage, runProgram, memWrite]

/-! The status read (R226). -/

/-- Handle `h` after a status read that decodes `f` (R226, R227). -/
def Handle.afterStatus (h : Handle) (f : StatusFlags) : Handle :=
  { h with snap := ⟨true, f⟩, mode := modeAfterStatus h.mode f.busy }

@[simp] theorem Handle.afterStatus_bound (h : Handle) (f : StatusFlags) : (h.afterStatus f).bound = h.bound := rfl
@[simp] theorem Handle.afterStatus_profile (h : Handle) (f : StatusFlags) : (h.afterStatus f).profile = h.profile := rfl

/-- Two status reads with the same flags leave the handle as one. -/
theorem Handle.afterStatus_afterStatus (h : Handle) (f : StatusFlags) :
    (h.afterStatus f).afterStatus f = h.afterStatus f := by
  have hmode : modeAfterStatus (modeAfterStatus h.mode f.busy) f.busy = modeAfterStatus h.mode f.busy := by
    unfold modeAfterStatus
    split
    · simp
    · rfl
  simp [afterStatus, hmode]

/-- `read_status` on a valid handle in closed form (R221). -/
theorem readStatus_eq {s : State} {k : BitVec 4} (hi : s.Inv) (hv : validHandle s k = true) :
    exec (.readStatus k) s =
      .next (respond .ok (.snapshot ⟨true, s.statusFlags 0 (s.handle k).profile⟩)
        (s.during k (statusLen s.cfg (s.handle k).profile)
          (s.statusEvents 0 (s.handle k).selectLine (s.handle k).profile)
          ((s.handle k).afterStatus (s.statusFlags 0 (s.handle k).profile)))) := by
  have hs := hi.hasSlot hv
  have hread := statusRead_during s k 0 [] (s.handle k) hi.quiet hs
  rw [← during_start, setHandle_handle_self] at hread
  simp [exec, execReadStatus, hv, hread, snapshotOf, during_handle, hs, Handle.afterStatus]

theorem readStatus_refused {s : State} {k : BitVec 4} (hv : validHandle s k = false) :
    exec (.readStatus k) s = .next (raise .invalidRequest s) := by
  simp [exec, execReadStatus, hv]

/-- The flags of a status read are decided by the answers to its own exchanges. -/
theorem statusFlags_congr {s t : State} {p : Profile} (hc : t.cfg = s.cfg)
    (ha : ∀ i < statusLen s.cfg p, t.answer i = s.answer i) : t.statusFlags 0 p = s.statusFlags 0 p := by
  unfold State.statusFlags
  unfold statusLen at ha
  rw [hc]
  split at ha
  · rw [ha (0 + 1) (by omega), ha (0 + 3) (by omega)]
  · rw [ha (0 + 1) (by omega), if_neg ‹_›, if_neg ‹_›]

/-- What a status read of a valid handle leaves for the next one. -/
theorem readStatus_next {s t : State} {k : BitVec 4} (hi : s.Inv) (hv : validHandle s k = true)
    (h : exec (.readStatus k) s = .next t) :
    let h' := (s.handle k).afterStatus (s.statusFlags 0 (s.handle k).profile)
    t.cfg = s.cfg ∧ t.handles = (s.setHandle k h').handles ∧ t.handle k = h' ∧
      ∀ i, t.answer i = s.answer (statusLen s.cfg (s.handle k).profile + i) := by
  rw [readStatus_eq hi hv] at h
  cases h
  exact ⟨during_cfg .., during_handles .., during_handle _ _ _ _ _ (hi.hasSlot hv), during_answer _ _ _ _ _⟩

/-- Settles O33: the second read finds the handle that the first left, decodes the same flags, and writes the same
handle again. -/
theorem repeatedStatusReadIsIdempotent : Obligations.RepeatedStatusReadIsIdempotent := by
  intro s t u k hi ht hu hans
  cases hv : validHandle s k with
  | false =>
    rw [readStatus_refused hv] at ht
    cases ht
    rw [readStatus_refused (s := raise _ _) hv] at hu
    cases hu
    rfl
  | true =>
    obtain ⟨hcfg, -, hhandle, hanswer⟩ := readStatus_next hi hv ht
    have hflags := statusFlags_congr hcfg fun i hlt => (hanswer i).trans (hans i hlt)
    have hvt : validHandle t k = true := by simpa [validHandle, validIndex, hcfg, hhandle] using hv
    have hsame : (t.handle k).afterStatus (t.statusFlags 0 (t.handle k).profile) = t.handle k := by
      rw [hhandle, Handle.afterStatus_profile, hflags, Handle.afterStatus_afterStatus]
    obtain ⟨-, hhandles, -, -⟩ := readStatus_next (exec_inv hi ht) hvt hu
    rw [hhandles, hsame, setHandle_handle_self]

end Sys2Proof.Machine

/-! PROOFS. The encoding of a host request (R91 to R93): the table of the decoder as a relation (`Decodes`), which gives
the round trip, the one row of every header, the unused operands, and the requests that are refused at once. -/

namespace Sys2Proof.Machine

open Sys2Proof

/-! The rows of format REQ (R91 to R93). -/

section Header

variable {q : Request} {k o : BitVec 4}

theorem op_of_header (h : q.hdr = k ++ o) : q.op = o := by
  rw [Request.op, h, BitVec.extractLsb'_append_eq_right]

theorem idx_of_header (h : q.hdr = k ++ o) : q.idx = k := by
  rw [Request.idx, h, BitVec.extractLsb'_append_eq_left]

theorem hdr_eq_idx_append_op (q : Request) : q.hdr = q.idx ++ q.op := by
  simp only [Request.idx, Request.op, BitVec.extractLsb'_append_extractLsb'_eq_extractLsb', BitVec.extractLsb'_eq_self]

theorem hdr_of_op_toNat (h : q.op.toNat = o.toNat) : q.hdr = q.idx ++ o :=
  BitVec.eq_of_toNat_eq h ▸ hdr_eq_idx_append_op q

end Header

/-- The table of the host requests as a relation (R92, R93): the header's row and the operands that the row uses. -/
inductive Decodes (q : Request) : Instr → Prop
  | identify {k : BitVec 4} : q.hdr = k ++ 0x0#4 → Decodes q (.identify k)
  | read {k : BitVec 4} : q.hdr = k ++ 0x1#4 → Decodes q (.read k q.addr q.len)
  | program {k : BitVec 4} : q.hdr = k ++ 0x2#4 → Decodes q (.program k q.addr q.data q.budget)
  | eraseChip {k : BitVec 4} : q.hdr = k ++ 0x3#4 → Decodes q (.eraseChip k q.budget)
  | eraseBlock {k : BitVec 4} : q.hdr = k ++ 0x4#4 → Decodes q (.eraseBlock k q.addr q.budget)
  | readStatus {k : BitVec 4} : q.hdr = k ++ 0x5#4 → Decodes q (.readStatus k)
  | softwareReset {k : BitVec 4} : q.hdr = k ++ 0x6#4 → Decodes q (.softwareReset k)
  | hardwareReset {k : BitVec 4} : q.hdr = k ++ 0x7#4 → Decodes q (.hardwareReset k)
  | bindDevice {k : BitVec 4} : q.hdr = k ++ 0x8#4 → Decodes q (.bindDevice k q.sel)
  | readVerify {k : BitVec 4} : q.hdr = k ++ 0x9#4 → Decodes q (.readVerify k q.addr q.len q.pattern)
  | reservedAB {k : BitVec 4} {x : BitVec 1} : q.hdr = k ++ (0b101#3 ++ x : BitVec 4) → Decodes q (.reservedAB k x)
  | reservedCF {k : BitVec 4} {x : BitVec 2} : q.hdr = k ++ (0b11#2 ++ x : BitVec 4) → Decodes q (.reservedCF k x)

/-- The decoder follows its table. -/
theorem decodes_decode (q : Request) : Decodes q (decode q) := by
  have h11xx : ∀ o : BitVec 4, 12 ≤ o.toNat → o = (0b11#2 ++ o.extractLsb' 0 2 : BitVec 4) := by decide
  unfold decode
  split
  case h_1 h => exact .identify (hdr_of_op_toNat h)
  case h_2 h => exact .read (hdr_of_op_toNat h)
  case h_3 h => exact .program (hdr_of_op_toNat h)
  case h_4 h => exact .eraseChip (hdr_of_op_toNat h)
  case h_5 h => exact .eraseBlock (hdr_of_op_toNat h)
  case h_6 h => exact .readStatus (hdr_of_op_toNat h)
  case h_7 h => exact .softwareReset (hdr_of_op_toNat h)
  case h_8 h => exact .hardwareReset (hdr_of_op_toNat h)
  case h_9 h => exact .bindDevice (hdr_of_op_toNat h)
  case h_10 h => exact .readVerify (hdr_of_op_toNat h)
  case h_11 h => exact .reservedAB (hdr_of_op_toNat h)
  case h_12 h => exact .reservedAB (hdr_of_op_toNat h)
  case h_13 =>
    refine .reservedCF (hdr_of_op_toNat (congrArg BitVec.toNat (h11xx _ ?_)))
    simp only [imp_false] at *
    omega

/-- The rows exclude each other: the table leaves no choice. -/
theorem Decodes.decode_eq {q : Request} {i : Instr} (h : Decodes q i) : decode q = i := by
  cases h with
  | @reservedAB k x h =>
    have hx : ∀ x : BitVec 1, x = 0 ∨ x = 1 := by decide
    obtain rfl | rfl := hx x <;> simp [decode, op_of_header h, idx_of_header h]
  | @reservedCF k x h =>
    have hx : ∀ x : BitVec 2, x = 0 ∨ x = 1 ∨ x = 2 ∨ x = 3 := by decide
    obtain rfl | rfl | rfl | rfl := hx x <;> simp [decode, op_of_header h, idx_of_header h]
  | _ h => simp [decode, op_of_header h, idx_of_header h]

/-- A request has the header of the instruction it decodes to. -/
theorem Decodes.encode_hdr {q : Request} {i : Instr} (h : Decodes q i) : ∃ r, encode i = some r ∧ r.hdr = q.hdr := by
  cases h <;> exact ⟨_, rfl, Eq.symm ‹_›⟩

theorem encode_isSome (i : Instr) : (encode i).isSome = i.isRequest := by
  cases i <;> rfl

theorem encode_decodes {i : Instr} {q : Request} (h : encode i = some q) : Decodes q i := by
  cases i with
  | identify k => cases h; exact .identify rfl
  | read k addr len => cases h; exact .read rfl
  | program k addr data budget => cases h; exact .program rfl
  | eraseChip k budget => cases h; exact .eraseChip rfl
  | eraseBlock k addr budget => cases h; exact .eraseBlock rfl
  | readStatus k => cases h; exact .readStatus rfl
  | softwareReset k => cases h; exact .softwareReset rfl
  | hardwareReset k => cases h; exact .hardwareReset rfl
  | bindDevice k sel => cases h; exact .bindDevice rfl
  | readVerify k addr len pattern => cases h; exact .readVerify rfl
  | reservedAB k x => cases h; exact .reservedAB rfl
  | reservedCF k x => cases h; exact .reservedCF rfl
  | _ => cases h

/-- Settles O6: what `encode` writes stands in the instruction's own row of the table (`encode_decodes`). -/
theorem decodeReadsBackEncode : Obligations.DecodeReadsBackEncode :=
  ⟨fun _ _ h => (encode_decodes h).decode_eq, encode_isSome⟩

/-- Settles O8: requests with one header stand in one row, and its operands are the ones that agree. -/
theorem unusedOperandsAreIgnored : Obligations.UnusedOperandsAreIgnored := by
  intro q r hdr hsel haddr hlen hbudget hpattern hdata
  have hd := decodes_decode r
  generalize decode r = i at hd ⊢
  refine Decodes.decode_eq ?_
  cases hd with
  | identify h => exact .identify (hdr.trans h)
  | read h =>
    have hop := op_of_header (hdr.trans h)
    rw [← haddr (.inl hop), ← hlen (.inl hop)]
    exact .read (hdr.trans h)
  | program h =>
    have hop := op_of_header (hdr.trans h)
    rw [← haddr (.inr (.inl hop)), ← hdata hop, ← hbudget (.inl hop)]
    exact .program (hdr.trans h)
  | eraseChip h =>
    rw [← hbudget (.inr (.inl (op_of_header (hdr.trans h))))]
    exact .eraseChip (hdr.trans h)
  | eraseBlock h =>
    have hop := op_of_header (hdr.trans h)
    rw [← haddr (.inr (.inr (.inl hop))), ← hbudget (.inr (.inr hop))]
    exact .eraseBlock (hdr.trans h)
  | readStatus h => exact .readStatus (hdr.trans h)
  | softwareReset h => exact .softwareReset (hdr.trans h)
  | hardwareReset h => exact .hardwareReset (hdr.trans h)
  | bindDevice h =>
    rw [← hsel (op_of_header (hdr.trans h))]
    exact .bindDevice (hdr.trans h)
  | readVerify h =>
    have hop := op_of_header (hdr.trans h)
    rw [← haddr (.inr (.inr (.inr hop))), ← hlen (.inr hop), ← hpattern hop]
    exact .readVerify (hdr.trans h)
  | reservedAB h => exact .reservedAB (hdr.trans h)
  | reservedCF h => exact .reservedCF (hdr.trans h)

/-! The rows of the table exclude each other (R92, R93). -/

/-- The header that `encode` writes matches the instruction's row, for each of the instructions. -/
theorem headerMatches (i : Instr) : Laws.HeaderMatches.Statement i := by
  cases i with
  | identify k => exact Laws.HeaderMatches.identify k
  | read k a n => exact Laws.HeaderMatches.read k a n
  | program k a d b => exact Laws.HeaderMatches.program k a d b
  | eraseChip k b => exact Laws.HeaderMatches.eraseChip k b
  | eraseBlock k a b => exact Laws.HeaderMatches.eraseBlock k a b
  | readStatus k => exact Laws.HeaderMatches.readStatus k
  | softwareReset k => exact Laws.HeaderMatches.softwareReset k
  | hardwareReset k => exact Laws.HeaderMatches.hardwareReset k
  | bindDevice k l => exact Laws.HeaderMatches.bindDevice k l
  | readVerify k a n p => exact Laws.HeaderMatches.readVerify k a n p
  | reservedAB k x => exact Laws.HeaderMatches.reservedAB k x
  | reservedCF k x => exact Laws.HeaderMatches.reservedCF k x
  | _ => exact Laws.HeaderMatches.of_bus _ rfl rfl

/-- The (mask, match) pairs of the twelve rows of format REQ. -/
def requestRows : List (Byte × Byte) :=
  (List.range 10).map (fun o => (0x0F, BitVec.ofNat 8 o)) ++ [(0x0E, 0x0A), (0x0C, 0x0C)]

theorem headerRow_mem {i : Instr} {row : Byte × Byte} (h : i.headerRow = some row) : row ∈ requestRows := by
  cases i <;> cases h <;> decide

/-- Two rows that match one header are one row. -/
theorem requestRow_unique {hdr : Byte} {r r' : Byte × Byte} (hr : r ∈ requestRows) (hr' : r' ∈ requestRows)
    (hm : hdr &&& r.1 = r.2) (hm' : hdr &&& r'.1 = r'.2) : r = r' := by
  have hdisjoint : requestRows.Pairwise fun r r' => r.2 &&& r'.1 ≠ r'.2 &&& r.1 := by decide
  have hsymm : Std.Symm fun r r' : Byte × Byte => r.2 &&& r'.1 ≠ r'.2 &&& r.1 := ⟨fun _ _ => Ne.symm⟩
  by_contra hne
  refine hdisjoint.forall hr hr' hne ?_
  rw [← hm, ← hm', BitVec.and_assoc, BitVec.and_assoc, BitVec.and_comm r.1]

theorem Decodes.index_eq {q : Request} {i : Instr} (h : Decodes q i) : i.index = q.idx := by
  cases h <;> exact (idx_of_header ‹_›).symm

theorem Decodes.isRequest {q : Request} {i : Instr} (h : Decodes q i) : i.isRequest = true := by
  obtain ⟨r, hr, -⟩ := h.encode_hdr
  rw [← encode_isSome, hr, Option.isSome_some]

/-- A request's header byte matches the row of its instruction. -/
theorem Decodes.row_matches {q : Request} {i : Instr} (h : Decodes q i) :
    ∃ row, i.headerRow = some row ∧ q.hdr &&& row.1 = row.2 := by
  obtain ⟨r, hr, hhdr⟩ := h.encode_hdr
  obtain ⟨hsome, hmatch⟩ := headerMatches i
  rw [hr] at hsome
  obtain ⟨row, hrow⟩ := Option.isSome_iff_exists.mp hsome.symm
  exact ⟨row, hrow, hhdr ▸ (hmatch r row.1 row.2 hr hrow).1⟩

/-- Settles O7: the decoded instruction's row matches (`Decodes.row_matches`), and no other row does
(`requestRow_unique`). -/
theorem everyHeaderMatchesItsOneRow : Obligations.EveryHeaderMatchesItsOneRow := by
  intro q
  have hd := decodes_decode q
  obtain ⟨row, hrow, hmatch⟩ := hd.row_matches
  refine ⟨hd.isRequest, hd.index_eq, fun i _ => ⟨?_, fun h => ⟨row.1, row.2, h.trans hrow, hmatch⟩⟩⟩
  rintro ⟨mask, m, hi, hm⟩
  rw [hi, hrow, requestRow_unique (headerRow_mem hi) (headerRow_mem hrow) hm hmatch]

/-! Requests that are refused at once (R93). -/

theorem execBindDevice_of_invalid {k : BitVec 4} {s : State} (hv : validIndex s k = false) (sel : Byte) :
    execBindDevice k sel s = .next (raise .invalidRequest s) := by
  simp [execBindDevice, bindRefused, hv]

theorem arrayGate_of_invalid {k : BitVec 4} {s : State} (hv : validHandle s k = false) :
    arrayGate s k = some .invalidRequest := by
  simp [arrayGate, hv]

/-- Every request on a bad index is refused (R91, R93). -/
theorem exec_of_invalid_index {i : Instr} {s : State} (hi : i.isRequest = true) (hv : validIndex s i.index = false) :
    exec i s = .next (raise .invalidRequest s) := by
  have hh : validHandle s i.index = false := by simp [validHandle, hv]
  cases i with
  | identify k => simp [exec, execIdentify, show validHandle s k = false from hh]
  | read k addr len => simp [exec, execRead, arrayGate_of_invalid (k := k) hh]
  | program k addr data budget => simp [exec, execProgram, programGate, arrayGate_of_invalid (k := k) hh]
  | eraseChip k budget => simp [exec, execEraseChip, arrayGate_of_invalid (k := k) hh]
  | eraseBlock k addr budget => simp [exec, execEraseBlock, arrayGate_of_invalid (k := k) hh]
  | readStatus k => exact readStatus_refused hh
  | softwareReset k => simp [exec, execSoftwareReset, show validHandle s k = false from hh]
  | hardwareReset k => simp [exec, execHardwareReset, show validHandle s k = false from hh]
  | bindDevice k sel => exact execBindDevice_of_invalid hv sel
  | readVerify k addr len pattern => simp [exec, execReadVerify, arrayGate_of_invalid (k := k) hh]
  | reservedAB k x => rfl
  | reservedCF k x => rfl
  | _ => cases hi

/-- The codes 0xA to 0xF stand in the two reserved rows. -/
theorem Decodes.exec_of_reserved_op {q : Request} {i : Instr} (h : Decodes q i) (hop : 10 ≤ q.op.toNat) (s : State) :
    exec i s = .next (raise .invalidRequest s) := by
  cases h with
  | reservedAB h => rfl
  | reservedCF h => rfl
  | _ h => rw [op_of_header h] at hop; exact absurd hop (by decide)

theorem op_toNat (q : Request) : q.op.toNat = q.hdr.toNat % 16 := by
  simp [Request.op]

theorem idx_toNat (q : Request) : q.idx.toNat = q.hdr.toNat / 16 := by
  have := q.hdr.isLt
  simp only [Request.idx, BitVec.extractLsb'_toNat, Nat.shiftRight_eq_div_pow]
  omega

/-- Settles O20: an operation code from 0xA on selects a reserved row, and a bad index is refused by every request. -/
theorem invalidRequestsAnswerInvalidRequest : Obligations.InvalidRequestsAnswerInvalidRequest := by
  refine ⟨fun s q hbad => ?_, fun _ _ _ => rfl, fun _ _ _ => rfl⟩
  have hd := decodes_decode q
  rw [← op_toNat, ← idx_toNat] at hbad
  obtain hop | hidx := hbad
  · exact hd.exec_of_reserved_op hop s
  · refine exec_of_invalid_index hd.isRequest ?_
    rw [validIndex, indexOk, hd.index_eq]
    simp only [Bool.and_eq_false_iff, decide_eq_false_iff_not]
    omega

end Sys2Proof.Machine

/-! PROOFS. The vendor profile multiplexer (R101, R102), and the bytes of the bus formats (R105, R106): what they are,
how they are read back, and the bracket that sends them. -/

namespace Sys2Proof.Machine

open Sys2Proof

/-! The multiplexer. -/

/-- Settles O14: slot by slot; only the reset pair asks whether the vendor is known. -/
theorem multiplexerFollowsItsTable : Obligations.MultiplexerFollowsItsTable := by
  intro c p slot
  cases slot <;> simp [opc]

/-- Settles O13: the multiplexer's table reads the vendor and the width alone. -/
theorem opcodesFixedByVendorAndWidth : Obligations.OpcodesFixedByVendorAndWidth := by
  intro c p q slot hv hw
  rw [multiplexerFollowsItsTable, multiplexerFollowsItsTable, hv, hw]

/-- A known vendor's opcodes are the registry's, but for the three generic slots. -/
theorem opc_of_known {c : Config} {p : Profile} (hv : p.vendor ≠ .unknown) {slot : Slot}
    (hs : slot ∉ [Slot.rdid, .rdsr, .eid]) : opc c p slot = regOpc c p.vendor slot p.addrWidth := by
  simp only [List.mem_cons, List.not_mem_nil, or_false, not_or] at hs
  obtain ⟨hrdid, hrdsr, heid⟩ := hs
  simp [multiplexerFollowsItsTable c p slot, hv, hrdid, hrdsr, heid]

/-! The opcodes that a well-formed registry defines (R101). -/

section Registry

variable {c : Config} (hc : c.wf = true)
include hc

theorem resetOpcodesOk_of_wf : c.resetOpcodesOk = true := by
  simp only [Config.wf, Bool.and_eq_true] at hc
  tauto

theorem arrayOpcodesOk_of_wf : c.arrayOpcodesOk = true := by
  simp only [Config.wf, Bool.and_eq_true] at hc
  tauto

theorem unknownEmpty_of_wf : c.unknownEmpty = true := by
  simp only [Config.wf, Bool.and_eq_true] at hc
  tauto

/-- No row of the opcode table is for vendor Unknown. -/
theorem regOpc_unknown (slot : Slot) (w : AddrWidth) : regOpc c .unknown slot w = none := by
  refine List.lookup_eq_none_iff.mpr fun row hrow => bne_iff_ne.mpr fun hkey => ?_
  have hne : row.1.1 ≠ .unknown := of_decide_eq_true (List.all_eq_true.mp (unknownEmpty_of_wf hc) row hrow)
  exact hne (congrArg Prod.fst hkey.symm)

/-- The reset pair of a known vendor, at both widths. -/
theorem regOpc_reset {v : Vendor} (hv : v ≠ .unknown) (w : AddrWidth) :
    (regOpc c v .rsten w).isSome = true ∧ (regOpc c v .rst w).isSome = true := by
  have hall := resetOpcodesOk_of_wf hc
  simp only [Config.resetOpcodesOk, List.all_eq_true, Bool.and_eq_true] at hall
  exact hall v (by cases v <;> simp at hv ⊢) w (by cases w <;> simp)

/-- A density entry of a known vendor has the opcodes that its width and layout ask for. -/
theorem entryOpcodesOk_of_densOf {m d : Byte} {e : DensityEntry} (hv : vendorOf c m ≠ .unknown)
    (he : densOf c m d = some e) : c.entryOpcodesOk (vendorOf c m) e = true := by
  obtain ⟨l₁, l₂, hl, -⟩ := List.lookup_eq_some_iff.mp he
  have hrow := List.all_eq_true.mp (arrayOpcodesOk_of_wf hc) ((m, d), e) (by simp [hl])
  simpa [hv] using hrow

end Registry

/-- `ProfileLegal.cases` with the manufacturer ID that named the vendor. -/
theorem ProfileLegal.cases_vendorOf {c : Config} {p : Profile} (hp : ProfileLegal c p) :
    p = unknownProfile c ∨
      ∃ m part d, vendorOf c m ≠ .unknown ∧ p = profileFrom c (vendorOf c m) part (densOf c m d) := by
  obtain ⟨m, t, d, rfl⟩ := hp
  unfold resolve
  split
  · exact .inl rfl
  · exact .inr ⟨m, _, d, ‹_›, rfl⟩

@[simp] theorem profileFrom_vendor (c : Config) (v : Vendor) (part : Option String) (e : Option DensityEntry) :
    (profileFrom c v part e).vendor = v := by
  cases e <;> rfl

/-- Settles O15: the Unknown profile has the generic reset pair alone; a known vendor has its own, and its density entry
has the opcodes that R101 asks for. -/
theorem wellFormedRegistryDefinesEveryOpcode : Obligations.WellFormedRegistryDefinesEveryOpcode := by
  intro c p hc hp
  obtain rfl | ⟨m, part, d, hv, rfl⟩ := hp.cases_vendorOf
  · exact ⟨by simp [operable, unknownProfile], by simp [operable, unknownProfile], rfl, rfl, by simp [unknownProfile],
      fun _ => regOpc_unknown hc⟩
  have hopc {slot : Slot} := opc_of_known (c := c) (p := profileFrom c (vendorOf c m) part (densOf c m d))
    (slot := slot) (by simpa using hv)
  simp only [profileFrom_vendor] at hopc
  have hreset := regOpc_reset hc hv (profileFrom c (vendorOf c m) part (densOf c m d)).addrWidth
  rw [← hopc (by decide), ← hopc (by decide)] at hreset
  obtain ⟨hrsten, hrst⟩ := hreset
  cases he : densOf c m d with
  | none =>
    rw [he] at hrsten hrst
    exact ⟨by simp [operable, profileFrom], by simp [operable, profileFrom], hrsten, hrst, by simp [profileFrom],
      by simp [hv]⟩
  | some e =>
    rw [he] at hopc hrsten hrst
    have hok := entryOpcodesOk_of_densOf hc hv he
    simp only [Config.entryOpcodesOk, Bool.and_eq_true, Bool.or_eq_true, Bool.not_eq_true', List.all_eq_true] at hok
    obtain ⟨⟨harray, hfour⟩, hsec⟩ := hok
    refine ⟨fun _ slot hs => ?_, fun _ hl => ?_, hrsten, hrst, fun hw => ?_, by simp [hv]⟩
    · rw [hopc (by revert slot; decide)]; exact harray slot hs
    · rw [hopc (by decide)]; exact hsec.resolve_left (by simpa [profileFrom] using hl)
    · rw [hopc (by decide), hw]; exact hfour.resolve_left (by simp [show e.addrWidth = .four from hw])

/-! The address bytes (R62, R105). -/

theorem wordByte_toNat (a : Word) (i : Nat) : (wordByte a i).toNat = a.toNat / 2 ^ (8 * i) % 256 := by
  simp [wordByte, Nat.shiftRight_eq_div_pow]

theorem addrBytes_three_of_fits (n : Nat) {a : Word} (h : addrFits .three a = true) :
    addrBytes n .three a = [wordByte a 2, wordByte a 1, wordByte a 0] := if_pos h

/-- Settles O12: byte `i` of the address is its slice from bit `8 * i`, and the number is its quotient by `2 ^ (8 * i)`,
below 256. -/
theorem addressBytesMostSignificantFirst : Obligations.AddressBytesMostSignificantFirst := by
  refine ⟨fun _ _ => rfl, fun n a ha => addrBytes_three_of_fits n (decide_eq_true ha), fun n w a ha => ?_⟩
  refine ⟨addrBytes_length n w a, ?_⟩
  cases w with
  | three =>
    rw [addrBytes_three_of_fits n (decide_eq_true ha)]
    simp only [List.foldl, wordByte_toNat, widthBytes] at ha ⊢
    omega
  | four =>
    simp only [addrBytes, List.foldl, wordByte_toNat, widthBytes] at ha ⊢
    omega

/-- A word is its four bytes, most significant first. -/
theorem wordBytes_append (a : Word) : wordByte a 3 ++ wordByte a 2 ++ wordByte a 1 ++ wordByte a 0 = a := by
  have h2 : wordByte a 3 ++ wordByte a 2 = a.extractLsb' 16 16 :=
    BitVec.extractLsb'_append_extractLsb'_eq_extractLsb' rfl
  have h1 : a.extractLsb' 16 16 ++ wordByte a 1 = a.extractLsb' 8 24 :=
    BitVec.extractLsb'_append_extractLsb'_eq_extractLsb' rfl
  have h0 : a.extractLsb' 8 24 ++ wordByte a 0 = a.extractLsb' 0 32 :=
    BitVec.extractLsb'_append_extractLsb'_eq_extractLsb' rfl
  rw [h2, h1, h0, BitVec.extractLsb'_eq_self]

theorem wordByte_three_of_fits {a : Word} (h : addrFits .three a = true) : wordByte a 3 = 0 := by
  have hlt : a.toNat < 2 ^ 24 := of_decide_eq_true h
  refine BitVec.eq_of_toNat_eq ?_
  rw [wordByte_toNat, Nat.div_eq_of_lt hlt]
  rfl

/-- The address at the head of a bracket's operand bytes reads back, where it fits the width. -/
theorem splitAddr_addrBytes (n : Nat) {w : AddrWidth} {a : Word} (h : addrFits w a = true) (rest : List Byte) :
    splitAddr w (addrBytes n w a ++ rest) = some (a, rest) := by
  have ha := wordBytes_append a
  cases w with
  | three =>
    rw [wordByte_three_of_fits h] at ha
    rw [addrBytes_three_of_fits n h]
    exact congrArg (fun a => some (a, rest)) ha
  | four => exact congrArg (fun a => some (a, rest)) ha

/-! The bytes of a bracket read back (R106). -/

/-- Where the defined opcodes are pairwise different, the opcode byte tells the slot. -/
theorem slot_eq_of_opc {c : Config} {p : Profile} (hd : opcodesDistinct c p = true) {x y : Slot} {o : Byte}
    (hx : opc c p x = some o) (hy : opc c p y = some o) : x = y := by
  have hp := List.pairwise_filterMap.mp (of_decide_eq_true hd)
  have hsymm : Std.Symm fun a a' => ∀ b, opc c p a = some b → ∀ b', opc c p a' = some b' → b ≠ b' :=
    ⟨fun _ _ h b hb b' hb' => (h b' hb' b hb).symm⟩
  have hall (z : Slot) : z ∈ Slot.all := by cases z <;> decide
  by_contra hne
  exact hp.forall (hall x) (hall y) hne o hx o hy rfl

/-- Settles O10: the first byte is the opcode of the format's slot and of no other (`slot_eq_of_opc`), so that
`decodeBus` comes to the format's own row; there the address reads back (`splitAddr_addrBytes`). -/
theorem busBytesReadBack : Obligations.BusBytesReadBack := by
  intro c n p cmd hd hsome hfit
  obtain ⟨o, ho⟩ := Option.isSome_iff_exists.mp hsome
  have hother (x : Slot) (hx : x ≠ cmd.slot) : opc c p x ≠ some o := fun h => hx (slot_eq_of_opc hd h ho)
  have hbyte : opByte c p cmd.slot = o := by simp [opByte, ho]
  have hsplit (a : Word) (ha : cmd.addr = some a) := splitAddr_addrBytes n (hfit a ha)
  cases cmd
  all_goals simp only [BusCmd.slot] at ho hother hbyte
  case eid => simp [encodeBus, hbyte, decodeBus, ho, hother, List.replicate_succ']
  case pp a data => simp [encodeBus, hbyte, decodeBus, ho, hother, hsplit a rfl]
  case be a =>
    have hend := hsplit a rfl []
    rw [List.append_nil] at hend
    simp [encodeBus, hbyte, decodeBus, ho, hother, hend]
  case read a len => simpa [encodeBus, hbyte, decodeBus, ho, hother, hsplit a rfl] using len.isLt
  all_goals simp [encodeBus, hbyte, decodeBus, ho, hother]

/-! The brackets of the bus formats (R106; log 10). -/

@[simp] theorem busCmd_toInstr (k : BitVec 4) (cmd : BusCmd) : (cmd.toInstr k).busCmd = some cmd := by
  cases cmd <;> rfl

@[simp] theorem index_toInstr (k : BitVec 4) (cmd : BusCmd) : (cmd.toInstr k).index = k := by
  cases cmd <;> rfl

theorem exec_toInstr (k : BitVec 4) (cmd : BusCmd) (s : State) : exec (cmd.toInstr k) s = busFormat k cmd s := by
  rw [exec_of_busCmd (busCmd_toInstr k cmd), index_toInstr]

/-- Settles O37: a bus format asks for a valid handle first. -/
theorem busFormatOfUnboundHandleFaults : Obligations.BusFormatOfUnboundHandleFaults := by
  intro s k cmd hv
  rw [exec_toInstr, busFormat, hv, if_neg Bool.false_ne_true]

/-- A bus format for a bound handle is one bracket on its line with the bytes of its row. -/
theorem exec_toInstr_eq {s : State} {k : BitVec 4} (hi : s.Inv) (hv : validHandle s k = true) (cmd : BusCmd) :
    exec (cmd.toInstr k) s = .next (s.advance (encodeBus s.cfg s.xferCount (s.handle k).profile cmd).length
      (s.bracketAt 0 (s.handle k).selectLine (encodeBus s.cfg s.xferCount (s.handle k).profile cmd))) := by
  rw [exec_toInstr, busFormat, if_pos hv, emitFor, emit_eq _ _ _ _ hi.quiet]

/-- Settles O36: the closed form of a bus format (`exec_toInstr_eq`), row by row of `encodeBus`. -/
theorem busFormatsSendTheirBytes : Obligations.BusFormatsSendTheirBytes := by
  intro s k hi hv p c sends
  have hsends := exec_toInstr_eq hi hv
  exact ⟨hsends .rdid, hsends .eid, hsends .rdsr, hsends .rdsr2, hsends .wren, fun a d => hsends (.pp a d),
    hsends .ce, fun a => hsends (.be a), fun a n => hsends (.read a n), hsends .rsten, hsends .rst, hsends .en4b⟩

/-- Settles O9: each word is a closed term, which the decoders evaluate. -/
theorem specWordsDecodeAsWritten : Obligations.SpecWordsDecodeAsWritten := by
  unfold Obligations.SpecWordsDecodeAsWritten
  decide

end Sys2Proof.Machine

/-! PROOFS. What a step emits (R101, R106, R110): the events between two states of an operation are a `BlockTrace` of
its configuration, one link per shared operation, up to the end of every request. -/

namespace Sys2Proof.Machine

open Sys2Proof

/-! Traces of delays, line events and brackets. -/

theorem BlockTrace.append {c : Config} {e f : List Event} (he : BlockTrace c e) (hf : BlockTrace c f) :
    BlockTrace c (e ++ f) := by
  induction he with
  | nil => exact hf
  | plain x rest hx _ ih => exact .plain x _ hx ih
  | bracket l n p cmd ins rest hl hp ho hlen _ ih =>
    rw [List.append_assoc]
    exact .bracket l n p cmd ins _ hl hp ho hlen ih

theorem blockTrace_plain (c : Config) {e : Event} (he : isPlain e = true) : BlockTrace c [e] := .plain e [] he .nil

theorem blockTrace_bracketAt {c : Config} (s : State) (i n : Nat) {l : Nat} {p : Profile} {cmd : BusCmd}
    (hl : l < c.numSelect) (hp : ProfileLegal c p) (ho : (opc c p cmd.slot).isSome = true) :
    BlockTrace c (s.bracketAt i l (encodeBus c n p cmd)) := by
  have h := BlockTrace.bracket l n p cmd _ [] hl hp ho (answers_length s i (encodeBus c n p cmd).length) .nil
  rwa [List.append_nil] at h

/-! A handle that can be spoken to. -/

/-- The registry is well-formed, the handle's line exists, and its profile is the resolver's. -/
structure Wired (c : Config) (h : Handle) : Prop where
  wf : c.wf = true
  line : h.selectLine < c.numSelect
  legal : ProfileLegal c h.profile

theorem State.Inv.wired_of_mem {s : State} (hi : s.Inv) {h : Handle} (hm : h ∈ s.handles) (hb : h.bound = true) :
    Wired s.cfg h :=
  ⟨hi.cfgWf, (hi.handle h hm hb).line, (hi.handle h hm hb).profile⟩

theorem State.Inv.wired {s : State} {k : BitVec 4} (hi : s.Inv) (hv : validHandle s k = true) :
    Wired s.cfg (s.handle k) :=
  hi.wired_of_mem (handle_mem s k (hi.hasSlot hv)) (validHandle_bound hv)

theorem Mid.wired {s : State} {k : BitVec 4} (hm : Mid k Mode.Between s) : Wired s.cfg (s.handle k) :=
  hm.toInv.wired_of_mem (handle_mem s k hm.slot) hm.bound

section Wired

variable {c : Config} {h : Handle} (hw : Wired c h)
include hw

/-- The reset pair (R101). -/
theorem Wired.opc_rsten_rst : (opc c h.profile .rsten).isSome = true ∧ (opc c h.profile .rst).isSome = true := by
  obtain ⟨-, -, hrsten, hrst, -⟩ := wellFormedRegistryDefinesEveryOpcode c _ hw.wf hw.legal
  exact ⟨hrsten, hrst⟩

theorem Wired.opc_en4b (hfour : h.profile.addrWidth = .four) : (opc c h.profile .en4b).isSome = true := by
  obtain ⟨-, -, -, -, hen4b, -⟩ := wellFormedRegistryDefinesEveryOpcode c _ hw.wf hw.legal
  exact hen4b hfour

end Wired

/-- An operation that its gates admit finds its opcode defined (R101). -/
theorem Admitted.opc {s : State} {k : BitVec 4} (ha : Admitted s k) (slot : Slot)
    (hs : slot ∈ [Slot.wren, .read, .pp, .ce, .be]) : (opc s.cfg (s.handle k).profile slot).isSome = true := by
  obtain ⟨harray, -⟩ := wellFormedRegistryDefinesEveryOpcode _ _ ha.inv.cfgWf (ha.inv.wired ha.valid).legal
  exact harray ha.operable slot hs

/-! The events of the shared operations. -/

/-- A run on handle `k` from `s` to `t` whose events are a trace of the formats. -/
def Traces (k : BitVec 4) (s t : State) : Prop := ∃ evs, Run k s t evs ∧ BlockTrace s.cfg evs

section Traces

variable {k : BitVec 4} {s t u : State}

theorem Traces.refl (k : BitVec 4) (s : State) : Traces k s s := ⟨[], Run.refl k s, .nil⟩

theorem Traces.cfg (h : Traces k s t) : t.cfg = s.cfg := by
  obtain ⟨_, r, -⟩ := h
  exact r.cfg

theorem Traces.trans (h : Traces k s t) (h' : Traces k t u) : Traces k s u := by
  have hc := h.cfg
  obtain ⟨e, r, he⟩ := h
  obtain ⟨f, r', hf⟩ := h'
  exact ⟨e ++ f, r.trans r', he.append (hc ▸ hf)⟩

theorem Traces.setHandle (h : Traces k s t) (x : Handle) : Traces k s (t.setHandle k x) :=
  h.trans ⟨[], run_setHandle t k x, .nil⟩

theorem Traces.setProfile (h : Traces k s t) (p : Profile) : Traces k s (t.setProfile k p) := h.setHandle _

theorem Traces.delay (h : Traces k s t) (n : Nat) : Traces k s (delay n t) :=
  h.trans ⟨_, run_delay k n t, blockTrace_plain _ rfl⟩

theorem Traces.driveReset (h : Traces k s t) (high : Bool) : Traces k s (driveReset high t) :=
  h.trans ⟨_, run_driveReset k high t, blockTrace_plain _ rfl⟩

/-- A bracket whose bytes are those of its format for a legal profile `p'` with a defined opcode. -/
theorem Traces.emit (h : Traces k s t) {l : Nat} {p p' : Profile} {cmd : BusCmd} (hl : l < s.cfg.numSelect)
    (hp : ProfileLegal s.cfg p') (ho : (opc s.cfg p' cmd.slot).isSome = true)
    (hbytes : ∀ n, encodeBus s.cfg n p cmd = encodeBus s.cfg n p' cmd := by intro; rfl) :
    Traces k s (emit l p cmd t).2 := by
  refine h.trans ⟨_, run_emit l p cmd t k, ?_⟩
  rw [h.cfg, hbytes]
  exact blockTrace_bracketAt t 0 _ hl hp ho

/-- The two formats of an identification have generic opcodes and read no profile, so that any profile will do. -/
theorem Traces.identifyBus (h : Traces k s t) {l : Nat} (hl : l < s.cfg.numSelect) (p : Profile) :
    Traces k s (identifyBus l p t).2 := by
  have hp : ProfileLegal s.cfg (resolve s.cfg 0 0 0).1 := ⟨0, 0, 0, rfl⟩
  have hid := h.emit (p := p) (cmd := .rdid) hl hp rfl
  unfold Machine.identifyBus
  dsimp only
  split
  · exact hid.emit (cmd := .eid) hl hp rfl
  · exact hid

theorem Traces.reenableAll {hs : List Handle} (h : Traces k s t) (hw : ∀ x ∈ hs, x.bound = true → Wired s.cfg x) :
    Traces k s (reenableAll hs t) := by
  induction hs generalizing t with
  | nil => exact h
  | cons x rest ih =>
    have hrest : ∀ y ∈ rest, y.bound = true → Wired s.cfg y := fun y hy => hw y (List.mem_cons_of_mem x hy)
    rw [Machine.reenableAll]
    split
    · next hx =>
      obtain ⟨hb, hfour⟩ := hx
      have hwx := hw x List.mem_cons_self hb
      exact ih (h.emit hwx.line hwx.legal (hwx.opc_en4b hfour)) hrest
    · exact ih h hrest

end Traces

/-- A trace during which handle `k` keeps its line and its profile. -/
structure Speaks (k : BitVec 4) (s t : State) : Prop where
  traces : Traces k s t
  line : (t.handle k).selectLine = (s.handle k).selectLine
  profile : (t.handle k).profile = (s.handle k).profile

section Speaks

variable {k : BitVec 4} {s t : State}

theorem Speaks.refl (k : BitVec 4) (s : State) : Speaks k s s := ⟨.refl k s, rfl, rfl⟩

/-- A write to handle `k` that keeps its line and its profile. -/
theorem Speaks.setHandle (h : Speaks k s t) {x : Handle} (hl : x.selectLine = (t.handle k).selectLine)
    (hp : x.profile = (t.handle k).profile) : Speaks k s (t.setHandle k x) := by
  by_cases hs : t.HasSlot k
  · have hx := handle_setHandle_self t k x hs
    exact ⟨h.traces.setHandle x, by rw [hx]; exact hl.trans h.line, by rw [hx]; exact hp.trans h.profile⟩
  · have hx := handle_setHandle_noSlot x hs
    exact ⟨h.traces.setHandle x, by rw [hx]; exact h.line, by rw [hx]; exact h.profile⟩

theorem Speaks.setMode (h : Speaks k s t) (m : Mode) : Speaks k s (t.setMode k m) := h.setHandle rfl rfl

theorem Speaks.setMismatch (h : Speaks k s t) (n : Word) : Speaks k s (t.setMismatch k n) := h.setHandle rfl rfl

theorem Speaks.setSnap (h : Speaks k s t) (f : StatusFlags) : Speaks k s (t.setSnap k f) := h.setHandle rfl rfl

theorem Speaks.delay (h : Speaks k s t) (n : Nat) : Speaks k s (delay n t) := ⟨h.traces.delay n, h.line, h.profile⟩

section Wired

variable (hw : Wired s.cfg (s.handle k))
include hw

theorem Speaks.emitFor (h : Speaks k s t) {cmd : BusCmd} (ho : (opc s.cfg (s.handle k).profile cmd.slot).isSome = true) :
    Speaks k s (emitFor k cmd t).2 := by
  refine ⟨h.traces.emit (p' := (s.handle k).profile) ?_ hw.legal ho ?_, ?_, ?_⟩
  · rw [h.line]; exact hw.line
  · rw [h.profile]; intro; rfl
  · rw [emitFor_handle]; exact h.line
  · rw [emitFor_handle]; exact h.profile

theorem Speaks.enable4b (h : Speaks k s t) : Speaks k s (enable4b k t) := by
  unfold Machine.enable4b
  split
  · next hfour =>
    rw [h.profile] at hfour
    exact h.emitFor hw (hw.opc_en4b hfour)
  · exact h

/-- A status read asks for the secondary register only where its opcode is defined (R224). -/
theorem Speaks.statusBytes (h : Speaks k s t) : Speaks k s (statusBytes k t).2 := by
  have hpri := h.emitFor hw (cmd := .rdsr) rfl
  unfold Machine.statusBytes
  dsimp only
  split
  · next hsec =>
    rw [h.traces.cfg, h.profile, readsSecondary, Bool.and_eq_true] at hsec
    exact hpri.emitFor hw hsec.2
  · exact hpri

theorem Speaks.statusRead (h : Speaks k s t) : Speaks k s (statusRead k t).2 :=
  (h.statusBytes hw).setSnap _ |>.setMode _

theorem Speaks.pollLoop (h : Speaks k s t) (n : Nat) (first : Bool) : Speaks k s (pollLoop k n first t).2 := by
  induction n generalizing first t with
  | zero => exact h
  | succ n ih =>
    have hstart : Speaks k s (if first then t else pollDelay t) := by
      unfold pollDelay
      split
      · exact h
      · split
        · exact h.delay _
        · exact h
    have hread := hstart.statusRead hw
    rw [Machine.pollLoop]
    generalize (if first then t else pollDelay t) = t₀ at hread ⊢
    split
    · exact ih hread false
    · exact hread

end Wired

end Speaks

theorem Traces.enable4b {k : BitVec 4} {s t : State} (h : Traces k s t) (hw : Wired t.cfg (t.handle k)) :
    Traces k s (enable4b k t) :=
  h.trans ((Speaks.refl k t).enable4b hw).traces

/-! The operations. -/

/-- What was emitted from `s` to `t` is a trace of the formats. -/
def Emits (s t : State) : Prop := ∃ evs, t.events = s.events ++ evs ∧ BlockTrace s.cfg evs

theorem Emits.of_events_eq {s t : State} (h : t.events = s.events) : Emits s t :=
  ⟨[], h.trans (List.append_nil _).symm, .nil⟩

theorem Traces.emits {k : BitVec 4} {s t : State} (h : Traces k s t) : Emits s t := by
  obtain ⟨evs, r, he⟩ := h
  exact ⟨evs, r.events, he⟩

theorem Emits.respond {s t : State} (h : Emits s t) (c : Code) (v : Values) : Emits s (respond c v t) := h

theorem Emits.standbyAll {s t : State} (h : Emits s t) : Emits s (standbyAll t) := h

theorem raise_emits (c : Code) (s : State) : Emits s (raise c s) := .of_events_eq rfl

section Operations

variable {k : BitVec 4} {s : State}

section Admitted

variable (ha : Admitted s k)
include ha

theorem Admitted.wired : Wired s.cfg (s.handle k) := ha.inv.wired ha.valid

theorem runRead_emits (addr len : Word) : Emits s (runRead k addr len s) :=
  (Speaks.refl k s).setMode .reading |>.emitFor ha.wired (cmd := .read addr len) (ha.opc .read (by decide))
    |>.setMode .standby |>.traces.emits.respond _ _

theorem runReadVerify_emits (addr len : Word) (pattern : Byte) : Emits s (runReadVerify k addr len pattern s) :=
  (Speaks.refl k s).setMode .reading |>.setMismatch 0
    |>.emitFor ha.wired (cmd := .read addr len) (ha.opc .read (by decide)) |>.setMismatch _ |>.setMode .standby
    |>.traces.emits.respond _ _

theorem runErase_emits {cmd : BusCmd} (hcmd : cmd.slot ∈ [Slot.wren, .read, .pp, .ce, .be]) (budget : Word) :
    Emits s (runErase k cmd budget s) :=
  (Speaks.refl k s).setMode .erasing |>.emitFor ha.wired (cmd := .wren) (ha.opc .wren (by decide))
    |>.emitFor ha.wired (ha.opc cmd.slot hcmd) |>.pollLoop ha.wired budget.toNat true |>.traces.emits.respond _ _

theorem runProgram_emits (addr : Word) (data : List Byte) (budget : Word) : Emits s (runProgram k addr data budget s) :=
  (Speaks.refl k s).setMode .writing |>.emitFor ha.wired (cmd := .wren) (ha.opc .wren (by decide))
    |>.emitFor ha.wired (cmd := .pp addr data) (ha.opc .pp (by decide)) |>.pollLoop ha.wired budget.toNat true
    |>.traces.emits.respond _ _

end Admitted

section Wired

variable (hw : Wired s.cfg (s.handle k))
include hw

theorem readStatus_emits : Emits s (respond .ok (snapshotOf k (statusRead k s).2) (statusRead k s).2) :=
  (Speaks.refl k s).statusRead hw |>.traces.emits.respond _ _

theorem runSoftwareReset_emits : Emits s (runSoftwareReset k s) :=
  (Speaks.refl k s).setMode .softwareReset |>.emitFor hw (cmd := .rsten) hw.opc_rsten_rst.1 |>.delay _
    |>.emitFor hw (cmd := .rst) hw.opc_rsten_rst.2 |>.enable4b hw |>.setMode .standby |>.traces.emits.respond _ _

theorem runIdentify_emits : Emits s (runIdentify k s) :=
  (Traces.refl k s).identifyBus hw.line _ |>.setProfile _ |>.emits.respond _ _

end Wired

theorem runHardwareReset_emits (hi : s.Inv) (hv : validHandle s k = true) : Emits s (runHardwareReset k s) := by
  have hw : ∀ x ∈ (s.setMode k .hardwareReset).handles, x.bound = true → Wired s.cfg x := by
    intro x hx hb
    rw [State.setMode, setHandle_handles s k _ (hi.hasSlot hv).1] at hx
    obtain hx | rfl := List.mem_or_eq_of_mem_set hx
    · exact hi.wired_of_mem hx hb
    · exact { hi.wired hv with }
  exact (Traces.refl k s).setHandle _ |>.driveReset false |>.delay _ |>.driveReset true |>.delay _ |>.reenableAll hw
    |>.emits.standbyAll.respond _ _

theorem runBind_emits (hi : s.Inv) {sel : Byte} (hr : bindRefused s k sel = false) : Emits s (runBind k sel s) := by
  obtain ⟨hv, hsel, -⟩ := bindRefused_eq_false hr
  have hs : s.HasSlot k := hasSlot_of_valid hi.bank hv
  have hid := busPhase_idEvents (s.during k 0 [] (Handle.fresh (s.handle k) sel.toNat)) sel.toNat
  have h (p : Profile) := (Traces.refl k s).setHandle (Handle.fresh (s.handle k) sel.toNat)
    |>.identifyBus hsel (s.handle k).profile |>.setProfile p
  simp only [runBind, during_start, identifyBus_eq _ _ _ (during_quiet s k _ _ _ hi.quiet), during_advance,
    during_setProfile s k _ _ _ hs] at h ⊢
  exact (h _).enable4b (bound_mid hi hr _ hid ⟨_, _, _, by rw [during_cfg]⟩).wired |>.emits.respond _ _

end Operations

/-! The instructions. -/

/-- The three gates admit an operation (R151 to R154). -/
theorem State.Inv.admitted {s : State} {k : BitVec 4} (hi : s.Inv) (hg : arrayGate s k = none) : Admitted s k := by
  obtain ⟨hv, hop, hm⟩ := arrayGate_eq_none_iff.mp hg
  exact ⟨hi, hv, hop, hm⟩

theorem arrayGate_of_programGate {s : State} {k : BitVec 4} {addr : Word} {data : List Byte}
    (h : programGate s k addr data = none) : arrayGate s k = none := by
  unfold programGate at h
  split at h
  · cases h
  · assumption

/-- Every host request emits a trace of the formats. -/
theorem exec_emits {i : Instr} {s t : State} (hi : s.Inv) (hr : i.isRequest = true) (h : exec i s = .next t) :
    Emits s t := by
  cases i with
  | identify k => cases h; split; exacts [runIdentify_emits (hi.wired ‹_›), raise_emits _ s]
  | read k addr len => cases h; split; exacts [raise_emits _ s, runRead_emits (hi.admitted ‹_›) addr len]
  | program k addr data budget =>
    cases h; split
    exacts [raise_emits _ s, runProgram_emits (hi.admitted (arrayGate_of_programGate ‹_›)) addr data budget]
  | eraseChip k budget =>
    cases h; split; exacts [raise_emits _ s, runErase_emits (hi.admitted ‹_›) (cmd := .ce) (by decide) budget]
  | eraseBlock k addr budget =>
    cases h; split
    exacts [raise_emits _ s, runErase_emits (hi.admitted ‹_›) (cmd := .be addr) (by simp [BusCmd.slot]) budget]
  | readStatus k => cases h; split; exacts [readStatus_emits (hi.wired ‹_›), raise_emits _ s]
  | softwareReset k => cases h; split; exacts [runSoftwareReset_emits (hi.wired ‹_›), raise_emits _ s]
  | hardwareReset k => cases h; split; exacts [runHardwareReset_emits hi ‹_›, raise_emits _ s]
  | bindDevice k sel =>
    cases h; split; exacts [raise_emits _ s, runBind_emits hi (Bool.eq_false_of_not_eq_true ‹_›)]
  | readVerify k addr len pattern =>
    cases h; split; exacts [raise_emits _ s, runReadVerify_emits (hi.admitted ‹_›) addr len pattern]
  | reservedAB k x => cases h; exact raise_emits _ s
  | reservedCF k x => cases h; exact raise_emits _ s
  | _ => cases hr

/-- Settles O41: a request emits a trace of the formats (`exec_emits`), the reset input one line event, and an idle step
nothing. -/
theorem everyBracketIsOneOfTheFormats : Obligations.EveryBracketIsOneOfTheFormats := by
  intro s t hi h
  match hp : s.pending with
  | [] =>
    rw [step_of_idle hp] at h
    cases h
    exact Emits.of_events_eq rfl
  | .blockReset :: rest =>
    rw [step_of_blockReset hp] at h
    cases h
    exact ⟨_, rfl, blockTrace_plain _ rfl⟩
  | .request q :: rest =>
    rw [step_of_request hp] at h
    exact (exec_emits (hi.withPending rest) (decodes_decode q).isRequest h :)

end Sys2Proof.Machine


/-! PROOFS. Identification (40_identification.md): the resolver's two branches, `identify`, and `bind_device` in closed
form. -/

namespace Sys2Proof.Machine

open Sys2Proof

/-! The resolver (R135 to R141). -/

section Resolve

variable {c : Config} {m : Byte} (t d : Byte)

theorem resolve_of_unlisted (hv : vendorOf c m = .unknown) : resolve c m t d = (unknownProfile c, false) := by
  simp [resolve, hv]

theorem resolve_of_listed (hv : vendorOf c m ≠ .unknown) :
    resolve c m t d = (profileFrom c (vendorOf c m) (partOf c m t) (densOf c m d),
      (partOf c m t).isSome && (densOf c m d).isSome) := by
  unfold resolve
  split
  · contradiction
  · rfl

end Resolve

@[simp] theorem profileFrom_partNumber (c : Config) (v : Vendor) (part : Option String) (e : Option DensityEntry) :
    (profileFrom c v part e).partNumber = part := by
  cases e <;> rfl

/-- Settles O17: the resolver's first branch (`resolve_of_unlisted`). -/
theorem unlistedManufacturerYieldsUnknownProfile : Obligations.UnlistedManufacturerYieldsUnknownProfile :=
  fun _ _ t d hv => ⟨_, resolve_of_unlisted t d hv, rfl, rfl, rfl, rfl, rfl, rfl, rfl, rfl, rfl, rfl⟩

/-- Settles O18: the resolver's other branch (`resolve_of_listed`), whose profile copies the density entry, or has the
zero geometry without one. -/
theorem lookupsAreIndependent : Obligations.LookupsAreIndependent := by
  intro c m t d hv
  rw [resolve_of_listed t d hv]
  refine ⟨profileFrom_vendor .., profileFrom_partNumber .., fun e he => ?_, fun he => ?_, ?_⟩
  · rw [he]; exact ⟨rfl, rfl, rfl, rfl, rfl, rfl, rfl⟩
  · rw [he]; exact ⟨rfl, rfl, rfl, rfl, rfl, rfl, rfl⟩
  · simp [Option.isSome_iff_ne_none]

/-! `identify` (R133, R134). -/

/-- Settles O24: past its gate, `identify` is `IdentifyBus` in closed form and one write of the profile. -/
theorem identifyStoresTheResolvedProfile : Obligations.IdentifyStoresTheResolvedProfile := by
  refine fun s k hi => ⟨fun hv => ?_, fun hv => ?_⟩
  · have hrun : exec (.identify k) s = .next (runIdentify k s) := by simp [exec, execIdentify, hv]
    rw [hrun, runIdentify, identifyBus_eq _ _ s hi.quiet]
    rfl
  · simp [exec, execIdentify, hv, raise, respond]

/-! `bind_device` (R131). -/

section Answers

variable (s : State) (k : BitVec 4) (h : Handle)

/-! What an identification gets does not depend on the handle bank. -/

@[simp] theorem idIsMacronix_setHandle : (s.setHandle k h).idIsMacronix = s.idIsMacronix := by
  simp [State.idIsMacronix]
@[simp] theorem idType_setHandle : (s.setHandle k h).idType = s.idType := by simp [State.idType]
@[simp] theorem idCount_setHandle : (s.setHandle k h).idCount = s.idCount := by simp [State.idCount]
@[simp] theorem idEvents_setHandle (l : Nat) : (s.setHandle k h).idEvents l = s.idEvents l := by
  simp [State.idEvents]

end Answers

/-- The enable-4-byte-mode bracket inside an operation on handle `k`, emitted for a width-4 profile alone (R208). -/
theorem enable4b_during (s : State) (k : BitVec 4) (n : Nat) (e : List Event) (h : Handle) (hq : s.Quiet)
    (hs : s.HasSlot k) :
    enable4b k (s.during k n e h) =
      s.during k (n + if h.profile.addrWidth = .four then 1 else 0)
        (e ++ if h.profile.addrWidth = .four then
          s.bracketAt n h.selectLine [opByte s.cfg h.profile .en4b] else []) h := by
  rw [enable4b, during_handle s k n e h hs]
  split
  · rw [emitFor_during s k n e h hq hs]; rfl
  · simp

/-- `bind_device` past its gates, in closed form (R131, R134). -/
theorem runBind_eq {s : State} {k : BitVec 4} (hq : s.Quiet) (hs : s.HasSlot k) (sel : Byte) :
    runBind k sel s =
      respond (identCode s.idResult.2) (.profile s.idResult.1)
        (s.during k (s.idCount + if s.idResult.1.addrWidth = .four then 1 else 0)
          (s.idEvents sel.toNat ++ if s.idResult.1.addrWidth = .four then
            s.bracketAt s.idCount sel.toNat [opByte s.cfg s.idResult.1 .en4b] else [])
          { Handle.fresh (s.handle k) sel.toNat with profile := s.idResult.1 }) := by
  have hid (p : Profile) := identifyBus_eq sel.toNat p (s.setHandle k (Handle.fresh (s.handle k) sel.toNat))
    (hq.setHandle k _)
  simp only [idType_setHandle, idCount_setHandle, idEvents_setHandle, answer_setHandle, setHandle_advance] at hid
  have hp : resolve s.cfg (s.answer 1) s.idType (s.answer 3) = s.idResult := rfl
  simp only [runBind, hid, setHandle_cfg, hp]
  rw [← State.during, during_setProfile s k _ _ _ hs, enable4b_during s k _ _ _ hq hs]
  rfl

theorem validIndex_iff {s : State} {k : BitVec 4} :
    validIndex s k = true ↔ 1 ≤ k.toNat ∧ k.toNat ≤ s.cfg.numHandles := by
  simp [validIndex, indexOk]

theorem numHandles_le_of_wf {c : Config} (hc : c.wf = true) : c.numHandles ≤ 15 := by
  simp only [Config.wf, Config.countsOk, Bool.and_eq_true, decide_eq_true_eq] at hc
  tauto

/-- Every slot of the bank has its index: the bank is no longer than the 4 bits reach (R7). -/
theorem State.Inv.exists_index {s : State} (hi : s.Inv) {i : Nat} (h : i < s.handles.length) :
    ∃ j : BitVec 4, j.toNat = i + 1 ∧ validIndex s j = true ∧ s.handle j = s.handles[i] := by
  have hcount := numHandles_le_of_wf hi.cfgWf
  have hbank := hi.bank
  obtain ⟨j, hj⟩ : ∃ j : BitVec 4, j.toNat = i + 1 := ⟨_, BitVec.toNat_ofNatLT (i + 1) (by omega)⟩
  have hv : validIndex s j = true := validIndex_iff.mpr (by omega)
  refine ⟨j, hj, hv, ?_⟩
  rw [handle_eq_getElem s _ (hasSlot_of_valid hi.bank hv)]
  simp [hj]

/-- A line is taken where another valid handle has it (R131). -/
theorem lineTaken_iff {s : State} (hi : s.Inv) (k : BitVec 4) (l : Nat) :
    lineTaken s k l = true ↔ ∃ j, j ≠ k ∧ validHandle s j = true ∧ (s.handle j).selectLine = l := by
  simp only [lineTaken, List.any_eq_true, Bool.and_eq_true, decide_eq_true_eq, Prod.exists,
    List.mem_zipIdx_iff_getElem?]
  constructor
  · rintro ⟨h, i, hget, ⟨hb, hl⟩, hne⟩
    obtain ⟨hlt, rfl⟩ := List.getElem?_eq_some_iff.mp hget
    obtain ⟨j, hj, hv, hh⟩ := hi.exists_index hlt
    exact ⟨j, fun h => hne (h ▸ hj.symm), by simp [validHandle, hv, hh, hb], hh ▸ hl⟩
  · rintro ⟨j, hne, hv, hl⟩
    have hs := hi.hasSlot hv
    have hj := validIndex_iff.mp (validHandle_index hv)
    have hjk := BitVec.toNat_ne_iff_ne.mpr hne
    refine ⟨s.handle j, j.toNat - 1, ?_, ⟨validHandle_bound hv, hl⟩, by omega⟩
    rw [handle_eq_getElem s j hs]
    exact List.getElem?_eq_getElem hs.2

/-- The grounds of a refusal of bind_device (R131, R246). -/
theorem bindRefused_iff {s : State} (hi : s.Inv) (k : BitVec 4) (sel : Byte) :
    bindRefused s k sel = true ↔ ¬(1 ≤ k.toNat ∧ k.toNat ≤ s.cfg.numHandles) ∨ s.cfg.numSelect ≤ sel.toNat ∨
      ∃ j, j ≠ k ∧ validHandle s j = true ∧ (s.handle j).selectLine = sel.toNat := by
  rw [← lineTaken_iff hi, ← validIndex_iff]
  simp [bindRefused, or_assoc]

/-- Settles O25: a refusal is `bindRefused_iff`, and past the gates `runBind_eq` is the whole effect. -/
theorem bindCreatesTheHandle : Obligations.BindCreatesTheHandle := by
  intro s k sel hi refuse p four
  refine ⟨fun h => ?_, fun h => ?_⟩
  · simp [exec, execBindDevice, (bindRefused_iff hi k sel).mpr h, raise, respond]
  · have hr : bindRefused s k sel = false := Bool.eq_false_of_not_eq_true (mt (bindRefused_iff hi k sel).mp h)
    have hs : s.HasSlot k := hasSlot_of_valid hi.bank (bindRefused_eq_false hr).1
    have hrun : exec (.bindDevice k sel) s = .next (runBind k sel s) := by simp [exec, execBindDevice, hr]
    rw [hrun, runBind_eq hi.quiet hs]
    simp only [four, decide_eq_true_eq]
    rfl

end Sys2Proof.Machine

/-! PROOFS. The state machine of a handle (41_state_machine.md): the order of the gates (R152 to R154, R172), the course
of an erase_chip, the bounds of an operation (R163), and the transitions of the mode (R150). -/

namespace Sys2Proof.Machine

open Sys2Proof

/-! The gates in their order (R152 to R154, R172). -/

section Gates

variable {s : State} {k : BitVec 4}

theorem arrayGate_of_not_operable (hv : validHandle s k = true) (ho : operable (s.handle k).profile = false) :
    arrayGate s k = some .capabilityError := by
  simp [arrayGate, hv, ho]

theorem arrayGate_of_not_standby (hv : validHandle s k = true) (ho : operable (s.handle k).profile = true)
    (hm : (s.handle k).mode ≠ .standby) : arrayGate s k = some .notReady := by
  simp [arrayGate, hv, ho, hm]

/-- A program of more than a page, or off a page boundary, is refused by the last gate (R64, R172). -/
theorem programGate_of_misaligned {addr : Word} {data : List Byte} (hg : arrayGate s k = none)
    (hmis : (s.handle k).profile.pageSize.toNat < data.length ∨
      (0 < (s.handle k).profile.pageSize.toNat ∧ addr.toNat % (s.handle k).profile.pageSize.toNat ≠ 0)) :
    programGate s k addr data = some .alignmentError := by
  have hpage : pageAligned (s.handle k).profile addr data = false := by
    obtain hlong | ⟨hpos, hoff⟩ := hmis
    · simp [pageAligned, hlong]
    · simp [pageAligned, remainder, hpos.ne', hoff]
  simp [programGate, hg, hpage]

/-- An array operation that one of its three shared gates refuses ends at once with the gate's code (R12, R250). -/
theorem exec_of_arrayGate {i : Instr} {c : Code} (hi : isArrayOp i = true) (hg : arrayGate s i.index = some c) :
    exec i s = .next (raise c s) := by
  cases i with
  | read k addr len => simp [exec, execRead, show arrayGate s k = some c from hg]
  | program k addr data budget => simp [exec, execProgram, programGate, show arrayGate s k = some c from hg]
  | eraseChip k budget => simp [exec, execEraseChip, show arrayGate s k = some c from hg]
  | eraseBlock k addr budget => simp [exec, execEraseBlock, show arrayGate s k = some c from hg]
  | readVerify k addr len pattern => simp [exec, execReadVerify, show arrayGate s k = some c from hg]
  | _ => cases hi

end Gates

/-- Settles O21: each clause is the first gate that is shut, and a shut gate is the whole operation
(`exec_of_arrayGate`). -/
theorem arrayOperationsRefusedInOrder : Obligations.ArrayOperationsRefusedInOrder := by
  intro i s hi refused h page
  refine ⟨fun hbad => ?_, fun hv hop => ?_, fun hv hop hm => ?_, fun hv hop hm addr data budget hprog hmis => ?_⟩
  · have hv : validHandle s i.index = false := Bool.eq_false_of_not_eq_true fun hv =>
      hbad ⟨validIndex_iff.mp (validHandle_index hv), validHandle_bound hv⟩
    exact exec_of_arrayGate hi (arrayGate_of_invalid hv)
  · have ho : operable (s.handle i.index).profile = false := by simpa [operable, h] using hop
    exact exec_of_arrayGate hi (arrayGate_of_not_operable hv ho)
  · exact exec_of_arrayGate hi (arrayGate_of_not_standby hv hop hm)
  · have hg := programGate_of_misaligned (addr := addr) (data := data)
      (arrayGate_eq_none_iff.mpr ⟨hv, hop, hm⟩) hmis
    calc exec i s
      _ = exec (.program i.index addr data budget) s := congrArg (exec · s) hprog
      _ = .next (raise .alignmentError s) := by simp [exec, execProgram, hg]

/-- Settles O29: the gates admit the erase, and its command bracket is B-CE. -/
theorem eraseChipIssuesItsCommandAndPolls : Obligations.EraseChipIssuesItsCommandAndPolls := by
  intro s k budget ha
  refine mutationOutcome_of_exec (cmd := .ce) ha (.inr rfl) ?_
  simp [exec, execEraseChip, ha.arrayGate, runErase]

/-! The bounds of an operation (R163). -/

theorem bracketBound_of_busCmd {i : Instr} {cmd : BusCmd} (hc : i.busCmd = some cmd) (c : Config) :
    bracketBound c i = 1 := by
  cases i <;> cases hc <;> rfl

/-- Settles O42: a request's run is within its operands' bounds (`exec_next_cases`), the brackets of an admitted
hardware reset are at most the slots of the bank, and a bus format is one bracket. -/
theorem operationsAreBounded : Obligations.OperationsAreBounded := by
  intro i s t hbank h
  obtain ⟨u, c, v, ⟨evs, r, hb, hd⟩, rfl⟩ | ⟨k, rfl, u, ⟨evs, r, hb, hd⟩, rfl⟩ | ⟨cmd, hc, rfl⟩ := exec_next_cases h
  · exact ⟨evs, r.events, hb, hd⟩
  · exact ⟨evs, r.events, hb.trans_eq hbank, hd⟩
  · exact ⟨_, (run_emitFor cmd s i.index).events, by simp [bracketBound_of_busCmd hc], by simp⟩

/-! The transitions of the mode (R150). -/

/-- The mode that a mutating operation on handle `k` enters (R150). -/
inductive Enters (k : BitVec 4) : Instr → Mode → Prop
  | program (addr : Word) (data : List Byte) (budget : Word) : Enters k (.program k addr data budget) .writing
  | eraseChip (budget : Word) : Enters k (.eraseChip k budget) .erasing
  | eraseBlock (addr budget : Word) : Enters k (.eraseBlock k addr budget) .erasing

theorem Mutates.enters {k : BitVec 4} {i : Instr} (h : Mutates k i) : ∃ m, Enters k i m := by
  obtain ⟨a, d, b, rfl⟩ | ⟨b, rfl⟩ | ⟨a, b, rfl⟩ := h
  · exact ⟨_, .program a d b⟩
  · exact ⟨_, .eraseChip b⟩
  · exact ⟨_, .eraseBlock a b⟩

section Transitions

variable {i : Instr} {s t : State} {k : BitVec 4}

/-- A mutating operation is refused, or it is admitted and enters its mode, sends the write-enable bracket and its
command bracket, and polls (R157, R160). -/
theorem Enters.exec_cases {m : Mode} (he : Enters k i m) (hi : s.Inv) (h : exec i s = .next t) :
    (∃ c, t = raise c s) ∨ Admitted s k ∧
      ∃ cmd budget, t = poll k budget (emitFor k cmd (emitFor k .wren (s.setMode k m)).2).2 := by
  cases he with
  | program addr data budget =>
    cases h; split
    exacts [.inl ⟨_, rfl⟩, .inr ⟨hi.admitted (arrayGate_of_programGate ‹_›), .pp addr data, budget, rfl⟩]
  | eraseChip budget =>
    cases h; split; exacts [.inl ⟨_, rfl⟩, .inr ⟨hi.admitted ‹_›, .ce, budget, rfl⟩]
  | eraseBlock addr budget =>
    cases h; split; exacts [.inl ⟨_, rfl⟩, .inr ⟨hi.admitted ‹_›, .be addr, budget, rfl⟩]

/-- A poll ends in the mode in which it began, or in Standby (R161, R227). -/
theorem poll_mode {M : Mode → Prop} (hm : Mid k M s) (budget : Word) :
    ((poll k budget s).handle k).mode = (s.handle k).mode ∨ ((poll k budget s).handle k).mode = .standby :=
  (Mid.pollLoop (M := fun m => m = (s.handle k).mode ∨ m = .standby) { hm with mode := .inl rfl } (.inr rfl)
    budget.toNat true).mode

/-- A mutating operation that changes the mode takes it from Standby to the mode it enters (R150). -/
theorem Enters.mode_of_ne {m : Mode} (he : Enters k i m) (hi : s.Inv) (h : exec i s = .next t)
    (hne : (t.handle k).mode ≠ (s.handle k).mode) : (s.handle k).mode = .standby ∧ (t.handle k).mode = m := by
  obtain ⟨c, rfl⟩ | ⟨ha, cmd, budget, rfl⟩ := he.exec_cases hi h
  · exact absurd rfl hne
  · rw [ha.standby] at hne
    have hmid := ((hi.mid ha.valid).enter m).emitFor .wren |>.emitFor cmd
    refine ⟨ha.standby, ((poll_mode hmid budget).resolve_right hne).trans ?_⟩
    rw [emitFor_handle, emitFor_handle, setMode_handle_self ha.hasSlot]

/-- A status read changes a mode to Standby alone, and only where it decodes busy = 0 (R227). -/
theorem modeAfterStatus_of_ne {m : Mode} {busy : Bool} (hne : modeAfterStatus m busy ≠ m) :
    modeAfterStatus m busy = .standby ∧ busy = false := by
  unfold modeAfterStatus at hne ⊢
  split at hne
  · next hc => exact ⟨if_pos hc, hc.1⟩
  · exact absurd rfl hne

theorem readStatus_standby_of_mode_ne (hi : s.Inv) (hv : validHandle s k = true) (h : exec (.readStatus k) s = .next t)
    (hne : (t.handle k).mode ≠ (s.handle k).mode) :
    (t.handle k).mode = .standby ∧ (t.handle k).snap.valid = true ∧ (t.handle k).snap.flags.busy = false := by
  obtain ⟨-, -, hh, -⟩ := readStatus_next hi hv h
  rw [hh] at hne ⊢
  obtain ⟨hm, hb⟩ := modeAfterStatus_of_ne hne
  exact ⟨hm, rfl, hb⟩

theorem softwareReset_mode (hi : s.Inv) (hv : validHandle s k = true) (h : exec (.softwareReset k) s = .next t) :
    (t.handle k).mode = .standby := by
  cases h
  rw [if_pos hv, runSoftwareReset_handle (hi.hasSlot hv)]

/-- A hardware reset, refused or admitted, moves a bound handle to Standby or not at all (R205). -/
theorem hardwareReset_mode_eq_or_standby {j : BitVec 4} (hv : validHandle s j = true)
    (h : exec (.hardwareReset k) s = .next t) :
    (t.handle j).mode = (s.handle j).mode ∨ (t.handle j).mode = .standby := by
  cases h
  split
  · obtain ⟨m, hm⟩ := setMode_handle s k j .hardwareReset
    right
    rw [runHardwareReset_handle, hm, Handle.toStandby, if_pos (validHandle_bound hv)]
  · exact .inl rfl

/-- A bind_device, refused or admitted, moves its handle to Standby or not at all (R131). -/
theorem bindDevice_mode_eq_or_standby {sel : Byte} (hi : s.Inv) (h : exec (.bindDevice k sel) s = .next t) :
    (t.handle k).mode = (s.handle k).mode ∨ (t.handle k).mode = .standby := by
  cases h
  split
  · exact .inl rfl
  · next hr =>
    have hs := hasSlot_of_valid hi.bank (bindRefused_eq_false (Bool.eq_false_of_not_eq_true hr)).1
    right
    rw [runBind_eq hi.quiet hs, respond_handle, during_handle s k _ _ _ hs]
    rfl

end Transitions

/-- Settles O40: the writers of a handle (`exec_writes`), each with its transition. A handle that ends in Standby with
its mode changed was in Writing or Erasing, by the invariant. -/
theorem modeTransitionsAreTheRules : Obligations.ModeTransitionsAreTheRules := by
  intro i s t j hi h hv hne
  have hleft (ht : (t.handle j).mode = .standby) : (s.handle j).mode = .writing ∨ (s.handle j).mode = .erasing :=
    (hi.handleInv hv).mode.resolve_left fun hs => hne (ht.trans hs.symm)
  cases exec_writes h j with
  | nothing heq => exact absurd (congrArg Handle.mode heq) hne
  | profile p hp heq => exact absurd (congrArg Handle.mode heq) hne
  | mismatch a n p w hr heq => exact absurd (congrArg Handle.mode heq) hne
  | whole sel hb =>
    subst hb
    have ht := (bindDevice_mode_eq_or_standby hi h).resolve_left hne
    exact .inr (.inr ⟨hleft ht, ht, .inr (.inr (.inr ⟨sel, rfl⟩))⟩)
  | status snap m hw =>
    obtain hmut | rfl := hw
    · obtain ⟨m, he⟩ := hmut.enters
      obtain ⟨hs, ht⟩ := he.mode_of_ne hi h hne
      cases he with
      | program a d b => exact .inl ⟨hs, ht, a, d, b, rfl⟩
      | eraseChip b => exact .inr (.inl ⟨hs, ht, .inl ⟨b, rfl⟩⟩)
      | eraseBlock a b => exact .inr (.inl ⟨hs, ht, .inr ⟨a, b, rfl⟩⟩)
    · obtain ⟨ht, hvalid, hbusy⟩ := readStatus_standby_of_mode_ne hi hv h hne
      exact .inr (.inr ⟨hleft ht, ht, .inl ⟨rfl, hvalid, hbusy⟩⟩)
  | mode m hr =>
    obtain rfl | ⟨k, rfl⟩ := hr
    · have ht := softwareReset_mode hi hv h
      exact .inr (.inr ⟨hleft ht, ht, .inr (.inl rfl)⟩)
    · have ht := (hardwareReset_mode_eq_or_standby hv h).resolve_left hne
      exact .inr (.inr ⟨hleft ht, ht, .inr (.inr (.inl ⟨k, rfl⟩))⟩)

end Sys2Proof.Machine

/-! PROOFS. The block erase (43_erase.md): the course of the mutating operations (`mutationOutcome_of_exec`) with the B-BE
bracket, its address sent as given (R183 to R185). -/

namespace Sys2Proof.Machine

open Sys2Proof

/-- Settles O30: the shared gates are the only ones, so they admit the erase at every address, and its command bracket
is B-BE. -/
theorem eraseBlockIssuesItsCommandAndPolls : Obligations.EraseBlockIssuesItsCommandAndPolls := by
  intro s k addr budget ha
  refine mutationOutcome_of_exec (cmd := .be addr) ha (.inr rfl) ?_
  simp [exec, execEraseBlock, ha.arrayGate, runErase]

end Sys2Proof.Machine

/-! PROOFS. The comparison of a read (44_read.md): what the loop of `read_verify` counts and what it lists (R195), and
an admitted `read_verify` in closed form (R194 to R196). -/

namespace Sys2Proof.Machine

open Sys2Proof

/-! The list of the failing sectors. -/

/-- The list of failing sectors after a mismatch in sector `i`: a sector equal to the last one listed is not listed
again (R195). -/
def listSector (bad : List Nat) (i : Nat) : List Nat := if bad.getLast? = some i then bad else bad ++ [i]

theorem mem_listSector {bad : List Nat} {i x : Nat} : x ∈ listSector bad i ↔ x ∈ bad ∨ x = i := by
  unfold listSector
  split
  · have hi : i ∈ bad := List.mem_of_getLast? ‹_›
    exact ⟨.inl, fun h => h.elim id (· ▸ hi)⟩
  · simp

/-- In an increasing list the last element is the greatest, so that a sector no less than any listed is new, or is the
last one listed. -/
theorem pairwise_listSector {bad : List Nat} {i : Nat} (hp : bad.Pairwise (· < ·)) (hle : ∀ x ∈ bad, x ≤ i) :
    (listSector bad i).Pairwise (· < ·) := by
  unfold listSector
  split
  · exact hp
  next hlast =>
    refine List.pairwise_append.mpr ⟨hp, List.pairwise_singleton _ i, ?_⟩
    obtain rfl | ⟨init, y, rfl⟩ := bad.eq_nil_or_concat'
    · simp
    · have hinit : ∀ x ∈ init, x < y := by simpa using (List.pairwise_append.mp hp).2.2
      have hy : y < i := lt_of_le_of_ne (hle y (by simp)) (by simpa using hlast)
      simpa [or_imp, forall_and] using ⟨fun x hx => (hinit x hx).trans hy, hy⟩

/-! The loop, byte by byte. -/

section VerifyLoop

variable {pattern : Byte} {sector : Nat}

/-- Sector `x` holds a byte different from the pattern, of the bytes `bs` that begin at flash address `a` (R195). -/
def Mismatched (pattern : Byte) (sector a : Nat) (bs : List Byte) (x : Nat) : Prop :=
  ∃ i, i < bs.length ∧ bs.getD i 0 ≠ pattern ∧ x = (a + i) / sector

theorem mismatched_cons {a x : Nat} {b : Byte} {rest : List Byte} :
    Mismatched pattern sector a (b :: rest) x ↔
      (b ≠ pattern ∧ x = a / sector) ∨ Mismatched pattern sector (a + 1) rest x := by
  simp only [Mismatched, List.length_cons, Nat.exists_lt_succ_left, List.getD_cons_zero, List.getD_cons_succ,
    Nat.add_zero, Nat.add_assoc, Nat.add_comm 1]

theorem verifyLoop_cons_of_eq (a : Nat) (rest : List Byte) (n : Word) (bad : List Nat) :
    verifyLoop pattern sector a (pattern :: rest) n bad = verifyLoop pattern sector (a + 1) rest n bad := if_pos rfl

theorem verifyLoop_cons_of_ne (hs : 0 < sector) {b : Byte} (hb : b ≠ pattern) (a : Nat) (rest : List Byte) (n : Word)
    (bad : List Nat) :
    verifyLoop pattern sector a (b :: rest) n bad =
      verifyLoop pattern sector (a + 1) rest (n + 1) (listSector bad (a / sector)) := by
  simp [verifyLoop, hb, quotient, hs.ne', listSector]

variable (hs : 0 < sector)
include hs

/-- The count, in the 32 bits of the field `mismatch`. -/
theorem verifyLoop_count (a : Nat) (bs : List Byte) (n : Word) (bad : List Nat) :
    (verifyLoop pattern sector a bs n bad).1 = n + BitVec.ofNat 32 (bs.countP (fun b => decide (b ≠ pattern))) := by
  induction bs generalizing a n bad with
  | nil => simp [verifyLoop]
  | cons b rest ih =>
    by_cases hb : b = pattern
    · subst hb; simp [verifyLoop_cons_of_eq, ih]
    · simp [verifyLoop_cons_of_ne hs hb, ih, hb, BitVec.ofNat_add, BitVec.add_assoc, BitVec.add_comm 1#32]

theorem mem_verifyLoop (a : Nat) (bs : List Byte) (n : Word) (bad : List Nat) (x : Nat) :
    x ∈ (verifyLoop pattern sector a bs n bad).2 ↔ x ∈ bad ∨ Mismatched pattern sector a bs x := by
  induction bs generalizing a n bad with
  | nil => simp [verifyLoop, Mismatched]
  | cons b rest ih =>
    rw [mismatched_cons]
    by_cases hb : b = pattern
    · subst hb; simp [verifyLoop_cons_of_eq, ih]
    · simp [verifyLoop_cons_of_ne hs hb, ih, hb, mem_listSector, or_assoc]

/-- The addresses go up, so that the next sector is no less than any listed. -/
theorem pairwise_verifyLoop (a : Nat) (bs : List Byte) (n : Word) {bad : List Nat} (hp : bad.Pairwise (· < ·))
    (hle : ∀ x ∈ bad, x ≤ a / sector) : (verifyLoop pattern sector a bs n bad).2.Pairwise (· < ·) := by
  induction bs generalizing a n bad with
  | nil => exact hp
  | cons b rest ih =>
    have hnext : a / sector ≤ (a + 1) / sector := Nat.div_le_div_right a.le_succ
    by_cases hb : b = pattern
    · subst hb
      rw [verifyLoop_cons_of_eq]
      exact ih _ _ hp fun x hx => (hle x hx).trans hnext
    · rw [verifyLoop_cons_of_ne hs hb]
      refine ih _ _ (pairwise_listSector hp hle) fun x hx => ?_
      obtain hx | rfl := mem_listSector.mp hx
      · exact (hle x hx).trans hnext
      · exact hnext

end VerifyLoop

/-! `read_verify` (R194 to R196). -/

section Admitted

variable {s : State} {k : BitVec 4} (ha : Admitted s k)
include ha

/-- An operable handle has a sector size greater than zero (R27), so that no free quotient (log 9) is in play. -/
theorem Admitted.sectorSize_pos : 0 < (s.handle k).profile.sectorSize.toNat :=
  ((profileGeometryIsSound _ _ ha.inv.cfgWf (ha.inv.handleInv ha.valid).profile).1 ha.operable).2.1

/-- A device ends within reach of 32-bit addresses (R27). -/
theorem Admitted.density_le : (s.handle k).profile.density.toNat ≤ 2 ^ 32 := by
  obtain ⟨-, -, -, -, hreach, -⟩ :=
    (profileGeometryIsSound _ _ ha.inv.cfgWf (ha.inv.handleInv ha.valid).profile).1 ha.operable
  refine hreach.trans (Nat.pow_le_pow_right two_pos ?_)
  cases (s.handle k).profile.addrWidth <;> decide

/-- An admitted `read_verify` in closed form: `MemRead` between the writes of its handle, and what the loop gives. -/
theorem exec_readVerify_eq (addr len : Word) (pattern : Byte) {n : Word} {bad : List Nat}
    (hloop : verifyLoop pattern (s.handle k).profile.sectorSize.toNat addr.toNat
      (s.answers (1 + widthBytes (s.handle k).profile.addrWidth) len.toNat) 0 [] = (n, bad)) :
    exec (.readVerify k addr len pattern) s =
      .next (respond .ok (.verified (s.answers (1 + widthBytes (s.handle k).profile.addrWidth) len.toNat) n bad)
        (s.during k (1 + widthBytes (s.handle k).profile.addrWidth + len.toNat)
          (s.bracketAt 0 (s.handle k).selectLine
            (encodeBus s.cfg s.xferCount (s.handle k).profile (.read addr len)))
          { s.handle k with mismatch := n })) := by
  have hrun : exec (.readVerify k addr len pattern) s = .next (runReadVerify k addr len pattern s) := by
    simp [exec, execReadVerify, ha.arrayGate]
  rw [hrun, runReadVerify, setMode_eq_during]
  simp only [during_setMismatch s k _ _ _ ha.hasSlot, memRead_during s k _ _ _ ha.inv.quiet ha.hasSlot,
    during_handle s k _ _ _ ha.hasSlot, during_setMode s k _ _ _ ha.hasSlot, Nat.zero_add, Nat.add_zero,
    List.nil_append, hloop, ← ha.standby]

end Admitted

/-- Settles O27: the closed form (`exec_readVerify_eq`), with the loop's count, which `len` keeps below `2 ^ 32`, and
its list; a sector of a byte in the device is no greater than the byte's address. -/
theorem readVerifyCountsMismatches : Obligations.ReadVerifyCountsMismatches := by
  intro s k addr len pattern ha p out data
  have hs : 0 < p.sectorSize.toNat := ha.sectorSize_pos
  have hlen : data.length = len.toNat := answers_length ..
  have hmem (x : Nat) : x ∈ (verifyLoop pattern p.sectorSize.toNat addr.toNat data 0 []).2 ↔
      ∃ i, i < len.toNat ∧ data.getD i 0 ≠ pattern ∧ x = (addr.toNat + i) / p.sectorSize.toNat := by
    simp [mem_verifyLoop hs, Mismatched, hlen]
  refine ⟨_, _, exec_readVerify_eq ha addr len pattern rfl, ?_, ?_, hmem, fun hr x hx => ?_⟩
  · have hcount : data.countP (fun b => decide (b ≠ pattern)) < 2 ^ 32 :=
      List.countP_le_length.trans_lt (hlen.trans_lt len.isLt)
    rw [verifyLoop_count hs, zero_add, BitVec.toNat_ofNat, Nat.mod_eq_of_lt hcount]
  · exact pairwise_verifyLoop hs _ _ _ .nil (by simp)
  · obtain ⟨i, hi, -, rfl⟩ := (hmem x).mp hx
    have hend : addr.toNat + len.toNat ≤ p.density.toNat := by
      simp only [inRange, Bool.and_eq_true, decide_eq_true_eq] at hr
      exact hr.2
    calc (addr.toNat + i) / p.sectorSize.toNat
      _ ≤ addr.toNat + i := Nat.div_le_self ..
      _ < addr.toNat + len.toNat := Nat.add_lt_add_left hi _
      _ ≤ 2 ^ 32 := hend.trans ha.density_le

end Sys2Proof.Machine

/-! PROOFS. The resets of the chip (45_reset.md): `software_reset` (R201) and `hardware_reset` (R205) past their gate,
in closed form. -/

namespace Sys2Proof.Machine

open Sys2Proof

/-! The gate of both (R151). -/

section Gate

variable {s : State} {k : BitVec 4}

theorem exec_softwareReset_of_valid (hv : validHandle s k = true) :
    exec (.softwareReset k) s = .next (runSoftwareReset k s) := by
  simp [exec, execSoftwareReset, hv]

theorem exec_softwareReset_of_invalid (hv : validHandle s k = false) :
    exec (.softwareReset k) s = .next (raise .invalidRequest s) := by
  simp [exec, execSoftwareReset, hv]

theorem exec_hardwareReset_of_valid (hv : validHandle s k = true) :
    exec (.hardwareReset k) s = .next (runHardwareReset k s) := by
  simp [exec, execHardwareReset, hv]

theorem exec_hardwareReset_of_invalid (hv : validHandle s k = false) :
    exec (.hardwareReset k) s = .next (raise .invalidRequest s) := by
  simp [exec, execHardwareReset, hv]

end Gate

/-! `software_reset` (R201). -/

/-- `software_reset` past its gate, in closed form: two brackets with the settle delay between them, then the
enable-4-byte-mode bracket of a width-4 profile (R201, R208). -/
theorem runSoftwareReset_eq {s : State} {k : BitVec 4} (hq : s.Quiet) (hs : s.HasSlot k) :
    let h := s.handle k
    runSoftwareReset k s =
      respond .ok .nothing
        (s.during k (2 + if h.profile.addrWidth = .four then 1 else 0)
          (s.bracketAt 0 h.selectLine [opByte s.cfg h.profile .rsten] ++ [Event.delay s.cfg.tSrstSettle] ++
            s.bracketAt 1 h.selectLine [opByte s.cfg h.profile .rst] ++
            if h.profile.addrWidth = .four then s.bracketAt 2 h.selectLine [opByte s.cfg h.profile .en4b] else [])
          { h with mode := .standby }) := by
  simp only [runSoftwareReset, setMode_eq_during s k, emitFor_during s k _ _ _ hq hs, during_cfg, during_delay,
    enable4b_during s k _ _ _ hq hs, during_setMode s k _ _ _ hs]
  rfl

/-- Settles O34: past its gate, `software_reset` is `runSoftwareReset_eq`. -/
theorem softwareResetSequence : Obligations.SoftwareResetSequence := by
  intro s k hi h four
  refine ⟨fun hv => ?_, fun hv => exec_softwareReset_of_invalid hv⟩
  rw [exec_softwareReset_of_valid hv, runSoftwareReset_eq hi.quiet (hi.hasSlot hv)]
  simp only [four, decide_eq_true_eq]
  rfl

/-! `hardware_reset` (R205). -/

@[simp] theorem delay_cfg (t : Nat) (s : State) : (delay t s).cfg = s.cfg := rfl
@[simp] theorem driveReset_cfg (high : Bool) (s : State) : (driveReset high s).cfg = s.cfg := rfl

/-- The pulse on the hardware-reset line, with the delay that holds it and the delay that settles it. -/
def resetPulse (c : Config) : List Event :=
  [.resetLine false, .delay c.tHrstHold, .resetLine true, .delay c.tHrstSettle]

/-- The pulse leaves a line that was high as it was. -/
theorem pulse_eq_advance {s : State} (hr : s.resetHigh = true) (c : Config) :
    delay c.tHrstSettle (driveReset true (delay c.tHrstHold (driveReset false s))) =
      s.advance 0 (resetPulse c) := by
  simp [delay, driveReset, State.advance, resetPulse, hr]

/-! Which handles get an enable-4-byte-mode bracket, and with which bytes, does not depend on their modes. -/

@[simp] theorem needs4b_toStandby (h : Handle) : needs4b h.toStandby = needs4b h := by
  obtain ⟨m, hm⟩ := h.toStandby_eq
  rw [hm]; rfl

theorem countP_needs4b_map_toStandby (hs : List Handle) :
    (hs.map Handle.toStandby).countP needs4b = hs.countP needs4b := by
  simp [List.countP_map, Function.comp_def]

theorem reenableEvents_map_toStandby (s : State) (i : Nat) (hs : List Handle) :
    s.reenableEvents i (hs.map Handle.toStandby) = s.reenableEvents i hs := by
  induction hs generalizing i with
  | nil => rfl
  | cons h rest ih =>
    obtain ⟨m, hm⟩ := h.toStandby_eq
    simp only [List.map_cons, State.reenableEvents, needs4b_toStandby, ih]
    rw [hm]

/-- The brackets are decided by the parameters and the chips' answers. -/
theorem reenableEvents_congr {s t : State} (hc : t.cfg = s.cfg) (ha : ∀ i, t.answer i = s.answer i) (i : Nat)
    (hs : List Handle) : t.reenableEvents i hs = s.reenableEvents i hs := by
  induction hs generalizing i with
  | nil => rfl
  | cons h rest ih => simp [State.reenableEvents, State.bracketAt, State.answers, hc, ha, ih]

section SetMode

variable {s : State} {k : BitVec 4} (hb : (s.handle k).bound = true) (m : Mode)
include hb

theorem map_toStandby_setMode : (s.setMode k m).handles.map Handle.toStandby = s.handles.map Handle.toStandby :=
  congrArg State.handles (standbyAll_setMode hb m)

theorem countP_needs4b_setMode : (s.setMode k m).handles.countP needs4b = s.handles.countP needs4b := by
  rw [← countP_needs4b_map_toStandby, map_toStandby_setMode hb, countP_needs4b_map_toStandby]

theorem reenableEvents_setMode (t : State) (i : Nat) :
    t.reenableEvents i (s.setMode k m).handles = t.reenableEvents i s.handles := by
  rw [← reenableEvents_map_toStandby, map_toStandby_setMode hb, reenableEvents_map_toStandby]

end SetMode

/-- `hardware_reset` past its gate, in closed form: the mode it writes first is overwritten at its end, and no bracket
of it depends on a mode (R205). -/
theorem runHardwareReset_eq {s : State} {k : BitVec 4} (hi : s.Inv) (hb : (s.handle k).bound = true) :
    runHardwareReset k s =
      respond .ok .nothing
        ((standbyAll s).advance (s.handles.countP needs4b) (resetPulse s.cfg ++ s.reenableEvents 0 s.handles)) := by
  have hcfg : (s.setMode k .hardwareReset).cfg = s.cfg := setHandle_cfg ..
  have hhigh : (s.setMode k .hardwareReset).resetHigh = true := (setHandle_resetHigh ..).trans hi.resetHigh
  have hquiet : ((s.setMode k .hardwareReset).advance 0 (resetPulse s.cfg)).Quiet :=
    (hi.quiet.setHandle k _).advance _ _
  have hevents : ((s.setMode k .hardwareReset).advance 0 (resetPulse s.cfg)).reenableEvents 0
      (s.setMode k .hardwareReset).handles = s.reenableEvents 0 s.handles := by
    rw [reenableEvents_setMode hb]
    refine reenableEvents_congr ?_ ?_ _ _ <;> simp [State.setMode]
  calc runHardwareReset k s
    _ = respond .ok .nothing (standbyAll (reenableAll (s.setMode k .hardwareReset).handles
          ((s.setMode k .hardwareReset).advance 0 (resetPulse s.cfg)))) := by
      simp only [runHardwareReset, delay_cfg, driveReset_cfg, hcfg, pulse_eq_advance hhigh, advance_handles]
    _ = respond .ok .nothing ((standbyAll (s.setMode k .hardwareReset)).advance (s.handles.countP needs4b)
          (resetPulse s.cfg ++ s.reenableEvents 0 s.handles)) := by
      rw [reenableAll_eq _ _ hquiet, advance_advance, countP_needs4b_setMode hb, hevents, Nat.zero_add]; rfl
    _ = _ := by rw [standbyAll_setMode hb]

/-- Settles O35: past its gate, `hardware_reset` is `runHardwareReset_eq`. -/
theorem hardwareResetSequence : Obligations.HardwareResetSequence := by
  refine fun s k hi => ⟨fun hv => ?_, fun hv => exec_hardwareReset_of_invalid hv⟩
  rw [exec_hardwareReset_of_valid hv, runHardwareReset_eq hi (validHandle_bound hv)]
  rfl

end Sys2Proof.Machine

/-! PROOFS. Status read (46_status.md): the decoder's flags one position at a time (R225), `read_status` on every profile
and in every mode (R221), and what it can say of a device that identification did not resolve (R228). -/

namespace Sys2Proof.Machine

open Sys2Proof

/-! The decoder (R225). -/

section Flag

variable {pos : Option FlagPos} {s1 s2 r1 r2 : Byte} {b : Fin 8}

theorem flagAt_of_none (h : pos = none) : flagAt pos s1 s2 = false := by subst h; rfl

theorem flagAt_of_pri (h : pos = some ⟨.pri, b⟩) : flagAt pos s1 s2 = s1.getLsbD b.val := by subst h; rfl

theorem flagAt_of_sec (h : pos = some ⟨.sec, b⟩) : flagAt pos s1 s2 = s2.getLsbD b.val := by subst h; rfl

/-- A flag depends on the one bit of its position alone. -/
theorem flagAt_congr (hpri : ∀ b, pos = some ⟨.pri, b⟩ → s1.getLsbD b.val = r1.getLsbD b.val)
    (hsec : ∀ b, pos = some ⟨.sec, b⟩ → s2.getLsbD b.val = r2.getLsbD b.val) :
    flagAt pos s1 s2 = flagAt pos r1 r2 := by
  match pos with
  | none => rfl
  | some ⟨.pri, b⟩ => exact hpri b rfl
  | some ⟨.sec, b⟩ => exact hsec b rfl

end Flag

/-- Settles O19: busy and the write-enable latch are bits of the primary byte by definition; each error flag is its
position's bit, or 0 without one, and depends on nothing else (`flagAt_congr`). -/
theorem statusDecoderReadsNamedBits : Obligations.StatusDecoderReadsNamedBits := by
  refine ⟨fun l s1 s2 => ⟨rfl, rfl, flagAt_of_none, flagAt_of_none, fun _ => flagAt_of_pri, fun _ => flagAt_of_sec,
    fun _ => flagAt_of_pri, fun _ => flagAt_of_sec⟩, fun l s1 s2 r1 r2 hbusy hwel hpri hsec => ?_⟩
  have hperr : flagAt l.perr s1 s2 = flagAt l.perr r1 r2 :=
    flagAt_congr (fun b h => hpri b (.inl h)) (fun b h => hsec b (.inl h))
  have heerr : flagAt l.eerr s1 s2 = flagAt l.eerr r1 r2 :=
    flagAt_congr (fun b h => hpri b (.inr h)) (fun b h => hsec b (.inr h))
  simp only [decodeStatus, bitOf, hbusy, hwel, hperr, heerr]

/-! `read_status` (R221). -/

/-- Settles O31: `readStatus_eq` gives the admitted read in closed form, `readStatus_refused` the other. -/
theorem readStatusWritesSnapshotAndMode : Obligations.ReadStatusWritesSnapshotAndMode :=
  fun _ _ hi => ⟨readStatus_eq hi, readStatus_refused⟩

/-! A profile that is not operable (R138, R228). -/

/-- The secondary status register is not read while the density is unresolved (R224). -/
theorem readsSecondary_of_densOk_false {c : Config} {p : Profile} (h : p.densOk = false) :
    readsSecondary c p = false := by
  simp [readsSecondary, h]

section PrimaryOnly

variable {s : State} {p : Profile} (h : readsSecondary s.cfg p = false)
include h

theorem statusEvents_of_primary_only (i l : Nat) :
    s.statusEvents i l p = s.bracketAt i l [s.cfg.opcRdsr, s.cfg.dummy] := by
  simp [State.statusEvents, h]

theorem statusFlags_of_primary_only (i : Nat) : s.statusFlags i p = decodeStatus p.layout (s.answer (i + 1)) 0x00 := by
  simp [State.statusFlags, h]

end PrimaryOnly

/-- The generic layout names two bits of the primary byte and no error flag (R28). -/
theorem decodeStatus_genericLayout (c : Config) (s1 s2 : Byte) :
    decodeStatus (genericLayout c) s1 s2 =
      ⟨s1.getLsbD c.genBusyBit.val, s1.getLsbD c.genWelBit.val, false, false⟩ := rfl

/-- Settles O32: a profile of the resolver that is not operable has no resolved density, hence one bracket, and the
generic layout, hence the generic bits and no error flag. -/
theorem unresolvedStatusReadDegrades : Obligations.UnresolvedStatusReadDegrades := by
  intro s k hi hv ho
  obtain ⟨-, -, -, -, -, hlayout, hdens⟩ :=
    (profileGeometryIsSound _ _ hi.cfgWf (hi.handleInv hv).profile).2 ho
  have hpri := readsSecondary_of_densOk_false (c := s.cfg) hdens
  refine ⟨_, readStatus_eq hi hv, ?_, ?_⟩
  · rw [respond_events, during_events, statusEvents_of_primary_only hpri]
  · rw [respond_handle, during_handle _ _ _ _ _ (hi.hasSlot hv), statusFlags_of_primary_only hpri, hlayout,
      decodeStatus_genericLayout]
    rfl

end Sys2Proof.Machine

/-! PROOFS. How a host request ends (60_exceptions.md): refused at a gate with nothing written (R252), or completed with
a code that is no refusal; in both ways with one response that fits the operation (R94, R248). -/

namespace Sys2Proof.Machine

open Sys2Proof

/-- The four codes of a refusal (R252). -/
def Code.Refuses (c : Code) : Prop :=
  c = .capabilityError ∨ c = .alignmentError ∨ c = .notReady ∨ c = .invalidRequest

/-- How host request `i` ends from `s`: refused with nothing but the response written, or completed by a response to a
state reached without one (R12, R252). -/
inductive Ends (i : Instr) (s : State) : State → Prop
  | refused (c : Code) : responseFits i ⟨c, .nothing⟩ = true → Ends i s (raise c s)
  | completed {u : State} {c : Code} {v : Values} : u.responses = s.responses → ¬c.Refuses →
      responseFits i ⟨c, v⟩ = true → Ends i s (respond c v u)

/-! Refused requests. -/

/-- Every request can be refused as invalid (R248). -/
theorem invalid_ends (i : Instr) (s : State) : Ends i s (raise .invalidRequest s) := .refused _ rfl

theorem arrayGate_code {s : State} {k : BitVec 4} {c : Code} (h : arrayGate s k = some c) :
    c = .invalidRequest ∨ c = .capabilityError ∨ c = .notReady := by
  unfold arrayGate at h
  split_ifs at h <;> cases h <;> simp

/-- An array operation can give every code of the three gates (R248, R250). -/
theorem arrayGate_ends {i : Instr} {s : State} {k : BitVec 4} {c : Code} (hi : isArrayOp i = true)
    (h : arrayGate s k = some c) : Ends i s (raise c s) := by
  refine .refused c ?_
  have hcode := arrayGate_code h
  cases i with
  | read | readVerify | program | eraseChip | eraseBlock => obtain rfl | rfl | rfl := hcode <;> rfl
  | _ => cases hi

theorem programGate_ends {s : State} {k : BitVec 4} {addr budget : Word} {data : List Byte} {c : Code}
    (h : programGate s k addr data = some c) : Ends (.program k addr data budget) s (raise c s) := by
  unfold programGate at h
  split at h
  · cases h; exact arrayGate_ends rfl ‹_›
  · split_ifs at h
    cases h; exact .refused _ rfl

/-! Completed requests. -/

/-- What an operation did before it answered gave no response. -/
theorem Answers.completes {i : Instr} {k : BitVec 4} {b d : Nat} {s u : State} {c : Code} {v : Values}
    (h : Answers k b d s (respond c v u)) (hc : ¬c.Refuses) (hf : responseFits i ⟨c, v⟩ = true) :
    Ends i s (respond c v u) := by
  obtain ⟨u', c', v', ⟨evs, r, -⟩, heq⟩ := h
  have hresp : u.responses ++ [⟨c, v⟩] = u'.responses ++ [⟨c', v'⟩] := congrArg State.responses heq
  exact .completed ((List.append_inj_left' hresp rfl).trans r.responses) hc hf

theorem ok_not_refuses : ¬Code.ok.Refuses := by simp [Code.Refuses]

/-- Identification ends resolved or unresolved, in `identify` and in `bind_device` (R139). -/
theorem identification_ends {i : Instr} {k : BitVec 4} {b d : Nat} {s u : State} {resolved : Bool} {p : Profile}
    (hi : i = .identify k ∨ ∃ sel, i = .bindDevice k sel)
    (h : Answers k b d s (respond (identCode resolved) (.profile p) u)) :
    Ends i s (respond (identCode resolved) (.profile p) u) := by
  refine h.completes ?_ ?_
  · cases resolved <;> simp [identCode, Code.Refuses]
  · obtain rfl | ⟨sel, rfl⟩ := hi <;> cases resolved <;> rfl

theorem pollLoop_code (k : BitVec 4) (n : Nat) (first : Bool) (s : State) :
    (pollLoop k n first s).1 = .ok ∨ (pollLoop k n first s).1 = .busyTimeout := by
  induction n generalizing first s with
  | zero => exact .inr rfl
  | succ n ih =>
    rw [pollLoop]
    generalize statusRead k (if first then s else pollDelay s) = r
    split
    · exact ih false _
    · exact .inl rfl

/-- The poll of a mutating operation ends it with Ok or BusyTimeout and a snapshot (R161, R162). -/
theorem poll_ends {i : Instr} {k : BitVec 4} {b d : Nat} {s u : State} {budget : Word} (hi : Mutates k i)
    (h : Answers k b d s (poll k budget u)) : Ends i s (poll k budget u) := by
  have hcode := pollLoop_code k budget.toNat true u
  refine h.completes ?_ ?_
  · obtain hc | hc := hcode <;> simp [hc, Code.Refuses]
  · obtain ⟨a, d, b, rfl⟩ | ⟨b, rfl⟩ | ⟨a, b, rfl⟩ := hi <;> obtain hc | hc := hcode <;> rw [hc] <;> rfl

/-- `MemRead` returns as many bytes as were asked for, in every state (R66). -/
theorem memRead_length (k : BitVec 4) (addr len : Word) (s : State) : (memRead k addr len s).1.length = len.toNat := by
  rw [memRead, List.length_drop, emitFor, emit_general, answers_length]
  simp only [encodeBus, List.length_append, List.length_singleton, addrBytes_length, List.length_replicate]
  omega

/-! The instructions. -/

/-- Every host request takes a next state and ends in it (R12). -/
theorem exec_ends {i : Instr} (hi : i.isRequest = true) (s : State) : ∃ t, exec i s = .next t ∧ Ends i s t := by
  cases i with
  | identify k =>
    refine ⟨_, rfl, ?_⟩; split
    exacts [identification_ends (.inl rfl) (runIdentify_answers k s), invalid_ends _ s]
  | read k addr len =>
    refine ⟨_, rfl, ?_⟩; split
    · exact arrayGate_ends rfl ‹_›
    · exact (runRead_answers k s addr len).completes ok_not_refuses (decide_eq_true (memRead_length ..))
  | program k addr data budget =>
    refine ⟨_, rfl, ?_⟩; split
    · exact programGate_ends ‹_›
    · exact poll_ends (.inl ⟨addr, data, budget, rfl⟩) (runProgram_answers k s addr data budget)
  | eraseChip k budget =>
    refine ⟨_, rfl, ?_⟩; split
    · exact arrayGate_ends rfl ‹_›
    · exact poll_ends (.inr (.inl ⟨budget, rfl⟩)) (runErase_answers k s .ce budget)
  | eraseBlock k addr budget =>
    refine ⟨_, rfl, ?_⟩; split
    · exact arrayGate_ends rfl ‹_›
    · exact poll_ends (.inr (.inr ⟨addr, budget, rfl⟩)) (runErase_answers k s (.be addr) budget)
  | readStatus k =>
    refine ⟨_, rfl, ?_⟩; split
    exacts [(readStatus_answers k s).completes ok_not_refuses rfl, invalid_ends _ s]
  | softwareReset k =>
    refine ⟨_, rfl, ?_⟩; split
    exacts [(runSoftwareReset_answers k s).completes ok_not_refuses rfl, invalid_ends _ s]
  | hardwareReset k =>
    refine ⟨_, rfl, ?_⟩; split
    · obtain ⟨u, ⟨evs, r, -⟩, heq⟩ := runHardwareReset_resetsAll k s
      exact heq ▸ .completed r.responses ok_not_refuses rfl
    · exact invalid_ends _ s
  | bindDevice k sel =>
    refine ⟨_, rfl, ?_⟩; split
    exacts [invalid_ends _ s, identification_ends (.inr ⟨sel, rfl⟩) (runBind_answers k s sel)]
  | readVerify k addr len pattern =>
    refine ⟨_, rfl, ?_⟩; split
    · exact arrayGate_ends rfl ‹_›
    · exact (runReadVerify_answers k s addr len pattern).completes ok_not_refuses (decide_eq_true (memRead_length ..))
  | reservedAB k x => exact ⟨_, rfl, invalid_ends _ s⟩
  | reservedCF k x => exact ⟨_, rfl, invalid_ends _ s⟩
  | _ => cases hi

/-- Settles O22: of the two ways in which a request ends (`exec_ends`) a completed one has no refusal's code, and a
refused one wrote its response alone. -/
theorem refusalsAreExact : Obligations.RefusalsAreExact := by
  intro i s t r hi h hresp hcode
  obtain ⟨t', ht, hend⟩ := exec_ends hi s
  obtain rfl : t' = t := Host.Outcome.next.inj (ht.symm.trans h)
  cases hend with
  | refused c _ =>
    obtain rfl : ⟨c, .nothing⟩ = r := by simpa [raise] using hresp
    exact ⟨rfl, rfl⟩
  | completed hu hc _ =>
    obtain rfl : ⟨_, _⟩ = r := by simpa [hu] using hresp
    exact absurd hcode hc

/-- Settles O23: both ways in which a request ends (`exec_ends`) append one fitting response. -/
theorem everyRequestGetsOneFittingResponse : Obligations.EveryRequestGetsOneFittingResponse := by
  intro i s hi
  obtain ⟨t, ht, hend⟩ := exec_ends hi s
  cases hend with
  | refused c hf => exact ⟨_, ⟨c, .nothing⟩, ht, rfl, hf⟩
  | completed hu _ hf => exact ⟨_, _, ht, by rw [respond_responses, hu], hf⟩

end Sys2Proof.Machine

/-! PROOFS. The block's reset input: the bank it leaves, and the block that waits after it. -/

namespace Sys2Proof.Machine

open Sys2Proof

/-- R46: the reset writes the unbound handle at every index, whatever the bank held before. -/
theorem blockReset_handles_unbound (s : State) {h : Handle} (hm : h ∈ (blockReset s).handles) : h.bound = false := by
  obtain rfl : h = Handle.unbound s.cfg := List.eq_of_mem_replicate hm
  rfl

theorem blockReset_handles_length (s : State) : (blockReset s).handles.length = s.cfg.numHandles :=
  List.length_replicate

/-- Settles O2: the state after reset presents no input, so the block waits in it (`step_of_idle`); a reset input at the
head of the queue is `blockReset` (`step_of_blockReset`), which leaves a whole bank of unbound handles and writes the
lines with constants. -/
theorem blockResetLeavesBlockIdle : Obligations.BlockResetLeavesBlockIdle := by
  refine ⟨fun c => ⟨rfl, step_of_idle rfl⟩, fun s rest hp => ?_⟩
  exact ⟨_, step_of_blockReset hp, rfl, blockReset_handles_length _, fun _ => blockReset_handles_unbound _,
    rfl, rfl, rfl, rfl, rfl, rfl⟩

end Sys2Proof.Machine
